-- ==== Sys2Proof/Word.lean ====
section
/-! DEFINITION. The two widths the unit's values have: bytes of the three buffers and 32-bit register words
(`00_scope.md` R6, R7). Nothing in the unit is signed. -/

namespace Sys2Proof

/-- A byte, an unsigned integer in `0..255` (R7). -/
abbrev Byte := BitVec 8

/-- A word, an unsigned integer in `0..2^32-1` (R7); every register is read and written as one (R12). -/
abbrev Word := BitVec 32

/-- What OPA and OPB hold: 16 bits (R22). -/
abbrev Half := BitVec 16

end Sys2Proof
end

