-- ==== Sys2Proof/Machine/Bytes.lean ====
section
/-! DEFINITION. The arithmetic primitives of `00_scope.md` R8 and the 12-byte header made of them (`41_encrypt.md` R77,
`43_check.md` R91, R93). -/

namespace Sys2Proof.Machine

/-- `add8(x, k) = (x + k) mod 256` (R8, R68). -/
def add8 (x k : Byte) : Byte := x + k

/-- `sub8(x, k) = (x - k) mod 256` (R8, R68). -/
def sub8 (x k : Byte) : Byte := x - k

/-- `mul32(p, q) = (p * q) mod 2^32` (R8). -/
def mul32 (p q : Word) : Word := p * q

/-- `le32(w)`: a word as four bytes, least significant first (R8, R36; notes/assumptions/13.md). -/
def le32 (w : Word) : List Byte :=
  [w.extractLsb' 0 8, w.extractLsb' 8 8, w.extractLsb' 16 8, w.extractLsb' 24 8]

/-- `unle32(s) = s[0] + 256*s[1] + 65536*s[2] + 16777216*s[3]` (R8). -/
def unle32 (b0 b1 b2 b3 : Byte) : Word :=
  b0.setWidth 32 + 256#32 * b1.setWidth 32 + 65536#32 * b2.setWidth 32 + 16777216#32 * b3.setWidth 32

/-- The header's length in bytes (R6). -/
def hdrLen : Nat := 12

/-- The three header words (R77, R91). -/
structure Header where
  a : Word
  b : Word
  c : Word
deriving DecidableEq, Repr

/-- What HA, HB, HC hold where a command has no header (R23). -/
def Header.zero : Header where
  a := 0
  b := 0
  c := 0

/-- The header's 12 bytes, `le32(a) ++ le32(b) ++ le32(c)` (R38, R77). -/
def Header.bytes (h : Header) : List Byte := le32 h.a ++ le32 h.b ++ le32 h.c

/-- The three words of `BuildHeader(a, b)`: the operands zero-extended and `c = mul32(a, b)` (R77, R78). -/
def headerOf (a b : Half) : Header where
  a := a.setWidth 32
  b := b.setWidth 32
  c := mul32 (a.setWidth 32) (b.setWidth 32)

/-- `BuildHeader(a, b)` (R77). -/
def buildHeader (a b : Half) : List Byte := (headerOf a b).bytes

/-- `ParseHeader(h)`: bytes 0 to 3, 4 to 7 and 8 to 11 as words (R91). It is used on 12 bytes only (notes/assumptions/18.md). -/
def parseHeader (h : List Byte) : Header where
  a := unle32 (h.getD 0 0) (h.getD 1 0) (h.getD 2 0) (h.getD 3 0)
  b := unle32 (h.getD 4 0) (h.getD 5 0) (h.getD 6 0) (h.getD 7 0)
  c := unle32 (h.getD 8 0) (h.getD 9 0) (h.getD 10 0) (h.getD 11 0)

/-- `ChecksumOK(A, B, C)`: `mul32(A, B) == C`, the low 32 bits of the product against the third word (R93). -/
def checksumOk (h : Header) : Bool := mul32 h.a h.b == h.c

/-- The transform's two directions: add (encode) or subtract (decode) (R67). -/
inductive Direction where
  | enc
  | dec
deriving DecidableEq, Repr

/-- One byte of the transform (R67, R68). -/
def Direction.apply : Direction → Byte → Byte → Byte
  | .enc, x, k => add8 x k
  | .dec, x, k => sub8 x k

/-- `Shift(dir, buf, key)` of R67, the closed form: byte `i` with key byte `i mod len(key)`. R67 defines it for a key of at
least one byte (notes/assumptions/18.md). -/
def shift (dir : Direction) (buf key : List Byte) : List Byte :=
  buf.mapIdx fun i x => dir.apply x (key.getD (i % key.length) 0)

end Sys2Proof.Machine
end

