-- ==== Sys2Proof/Config.lean ====
section
/-! DEFINITION. What an instance of the unit fixes, its two capacities (`00_scope.md` R5), and the free values the
spec leaves open: what a buffer byte holds that nothing defines (`10_state.md` R27, R34). -/

namespace Sys2Proof

/-- The three buffer spaces, disjoint from each other and from the registers (R28, R35). `inp` is the spec's IN. -/
inductive Space where
  | key
  | inp
  | out
deriving DecidableEq, Repr

/-- The two capacities a model takes as arguments, with the constraints R5 puts on them. -/
structure Params where
  /-- `KEY_MAX`, bytes in the KEY buffer. -/
  keyMax : Nat
  /-- `IN_MAX`, bytes in the IN buffer. -/
  inMax : Nat
  keyMax_pos : 1 ≤ keyMax
  keyMax_lt : keyMax < 2 ^ 32
  inMax_ge : 12 ≤ inMax
  outMax_lt : inMax + 12 < 2 ^ 32
deriving DecidableEq, Repr

/-- `OUT_MAX = IN_MAX + 12`, fixed by R5. -/
def Params.outMax (p : Params) : Nat := p.inMax + 12

/-- How many bytes each space has; its indices are those below this (R25, R26, R27). -/
def Params.capacity (p : Params) : Space → Nat
  | .key => p.keyMax
  | .inp => p.inMax
  | .out => p.outMax

/-- The suggested values of R5, 256 and 4096. DESIGN CHOICE (notes/assumptions/1.md): only `State.reset` uses them; every
other definition takes the capacities from the state, so a claim about every state is one about every instance. -/
def Config.suggested : Params where
  keyMax := 256
  inMax := 4096
  keyMax_pos := by decide
  keyMax_lt := by decide
  inMax_ge := by decide
  outMax_lt := by decide

/-- FREE VALUE (notes/assumptions/2.md, 3.md): `freeByte n S i` is the byte at index `i` of space `S` while nothing
defines it, in the `n`-th stretch of time in which it is undefined. R34: a byte never written since reset "holds an
unspecified value"; R27: `OUT[i]` for `i >= OLEN` is unspecified. -/
opaque Config.freeByte : Nat → Space → Nat → Byte

end Sys2Proof
end

