-- ==== Sys2Proof/Syntax.lean ====
section
/-! DEFINITION. The unit's instructions: the five commands of `30_encoding.md` R56, one constructor for each row of
spec/opcode_table.json. Operands are implicit, no command word carries any (R57), so no constructor has a field. -/

namespace Sys2Proof

/-- The five commands (R56). -/
inductive Instr where
  /-- SHIFT_ENC, `40_transform.md` R70. -/
  | shiftEnc
  /-- SHIFT_DEC, `40_transform.md` R71. -/
  | shiftDec
  /-- ENCRYPT, `41_encrypt.md` R78. -/
  | encrypt
  /-- DECRYPT, `42_decrypt.md` R85. -/
  | decrypt
  /-- CHECK, `43_check.md` R92. -/
  | check
deriving DecidableEq, Repr

end Sys2Proof
end

