-- ==== Sys2Proof/Machine/HostSyntax.lean ====
section
/-! DEFINITION. What the one host can do to the unit: the four accesses of `20_memory.md` R41 to R44, the lines of a host
script (`30_encoding.md` R60, R61), and the events whose order says which agent moves next (`10_state.md` R10,
`20_memory.md` R48). -/

namespace Sys2Proof.Machine

/-- One host access (R41 to R44): a whole register by number, or one byte of a buffer by index (R46). -/
inductive HostAccess where
  | regRead (n : Nat)
  | regWrite (n : Nat) (v : Word)
  | bufRead (sp : Space) (i : Nat)
  | bufWrite (sp : Space) (i : Nat) (v : Byte)
deriving DecidableEq, Repr

/-- One line of a host script. The lines `wr`, `rd`, `wb`, `rb` and `cmd` of R60 are each one access; the rest are
`wait` (R60) and the pseudo-lines (R61). -/
inductive ScriptLine where
  /-- `wr`, `rd`, `wb`, `rb`, `cmd`: one access; `cmd` is the write of the command word to register 0. -/
  | access (a : HostAccess)
  /-- `wait`: poll STATUS until BUSY reads 0. `polls` is how many of those reads still land before the unit completes, a
  number the spec leaves open (R130) and the script here carries, so that a claim about every script covers each. -/
  | wait (polls : Nat)
  /-- `key b0 … b(n-1)`. -/
  | key (bytes : List Byte)
  /-- `msg b0 … b(n-1)`. -/
  | msg (bytes : List Byte)
  /-- `ops a, b`. -/
  | ops (a b : Word)
  /-- `run MNEMONIC`: `cmd` then `wait`. -/
  | run (i : Instr) (polls : Nat)
  /-- `out`: read OLEN, then `OUT[0..OLEN)`. -/
  | out
  /-- `mov`: copy `OUT[0..OLEN)` to IN and OLEN to ILEN. -/
  | mov
deriving DecidableEq, Repr

/-- What happens next at the unit's interface. R130 leaves open when a started command completes among the host's
accesses; the list of events settles it as plain data. -/
inductive Event where
  /-- The host performs a script line. -/
  | host (l : ScriptLine)
  /-- The unit takes its turn: the completion step of R54 while `BUSY = 1`, nothing while it is idle (R117). -/
  | unit
  /-- The platform resets the unit (R119, R120); what causes it is left to the platform. -/
  | reset
deriving DecidableEq, Repr

/-- What a host read handed back (R41, R43). -/
inductive Observation where
  | reg (n : Nat) (v : Word)
  | byte (sp : Space) (i : Nat) (v : Byte)
deriving DecidableEq, Repr

end Sys2Proof.Machine
end

