-- ==== Sys2Proof/Machine/State.lean ====
section
/-! DEFINITION. The state of the SEA-ATU (`10_state.md` R11 to R30) with the host's side of the interface, and the reset
state (R33). -/

namespace Sys2Proof.Machine

/-- The four faults a command can complete with (R18, R102). None of them stops the machine: `takeFault` enters it. -/
inductive FaultCode where
  /-- Code 1, `KLEN = 0` (R103). -/
  | invalidKey
  /-- Code 2, DECRYPT or CHECK with `ILEN < 12` (R104). -/
  | malformedMessage
  /-- Code 3, the word in CMD is no command (R105). -/
  | illegalCommand
  /-- Code 4, `KLEN > KEY_MAX` or `ILEN > IN_MAX` (R106). -/
  | capacity
deriving DecidableEq, Repr

/-- The fields of register STATUS (R14). The reserved bits 3 and 31:8 read 0 and nothing can write them, so they are not
stored (notes/assumptions/12.md); `Status.toWord` is the register's value. -/
structure Status where
  /-- Bit 0 (R15). -/
  busy : Bool
  /-- Bit 1 (R16). -/
  done : Bool
  /-- Bit 2 (R17). -/
  valid : Bool
  /-- Bits 7:4, `none` for code 0 (R18). -/
  err : Option FaultCode
deriving DecidableEq, Repr

/-- The defined bytes of one buffer space: pairs of index and byte, indices strictly rising. An unlisted index has NO
value here (R34, R27), so no entry can equal what an unlisted index reads as. -/
abbrev Memory := List Host.Cell

/-- The machine's state. Registers in the order of R12, then buffers, then the hidden counters, then the instance's
capacities, then the model's own fields: the events still to come, what the host has read, and the two counters of the
free values. -/
structure State where
  /-- Register 0, CMD (R13). -/
  cmd : Word
  /-- Register 1, STATUS (R14). -/
  status : Status
  /-- Register 2, KLEN (R19). -/
  klen : Word
  /-- Register 3, ILEN (R20). -/
  ilen : Word
  /-- Register 4, OLEN (R21). -/
  olen : Word
  /-- Register 5, OPA: 16 bits are stored (R22). -/
  opa : Half
  /-- Register 6, OPB: 16 bits are stored (R22). -/
  opb : Half
  /-- Register 7, HA (R23). -/
  ha : Word
  /-- Register 8, HB (R23). -/
  hb : Word
  /-- Register 9, HC (R23). -/
  hc : Word
  /-- Buffer KEY (R25): the bytes written since reset. -/
  key : Memory
  /-- Buffer IN (R26): the bytes written since reset. -/
  inp : Memory
  /-- Buffer OUT (R27): the bytes of the last result. -/
  out : Memory
  /-- Hidden counter POS (R29). A Nat: it never wraps (notes/assumptions/9.md). -/
  pos : Nat
  /-- Hidden counter KIDX (R29). -/
  kidx : Nat
  /-- The instance's capacities (R5), changed by nothing (notes/assumptions/1.md). -/
  params : Params
  /-- MODEL'S OWN: the events to come at the interface, next first (R48; notes/assumptions/5.md). -/
  agenda : List Event
  /-- MODEL'S OWN: what the host has read, newest first (R41, R43). -/
  seen : List Observation
  /-- MODEL'S OWN: which free values the unwritten KEY and IN bytes hold (R34); a reset moves it on. -/
  resetDraw : Nat
  /-- MODEL'S OWN: which free values the undefined OUT bytes hold (R27); a completion or a reset moves it on. -/
  outDraw : Nat
deriving DecidableEq, Repr

/-- Faults that STOP the machine. There are none: each of the unit's faults ends in a next state (R110), and after it the
unit "is ready for the next command" (R111). Safe: nothing can be claimed of a stop that never happens (notes/assumptions/10.md). -/
inductive Fault where
deriving DecidableEq, Repr

/-- Why a step has no meaning. -/
inductive Refusal where
  /-- Raised by exec's arm of an instruction without a meaning; no arm is one. Safe. -/
  | notModelled (mnemonic : String)
  /-- Raised by the host port: a host access other than a STATUS read while `BUSY = 1` (R124, U6;
  notes/assumptions/7.md). Safe. -/
  | hostAccessWhileBusy
  /-- Raised by the host port: a register number above 9 (R24, R45, U8). Safe. -/
  | noSuchRegister (n : Nat)
  /-- Raised by the host port: a buffer index at or above the space's capacity (R45, U8). Safe. -/
  | noSuchIndex (sp : Space) (i : Nat)
  /-- Raised by the host port: the pseudo-line `mov` with `OLEN > IN_MAX` (R61: legal only when `OLEN <= IN_MAX`;
  notes/assumptions/14.md). Safe. -/
  | movTooLong
deriving DecidableEq, Repr

/-- STATUS right after reset: 0 (R33). -/
def Status.reset : Status where
  busy := false
  done := false
  valid := false
  err := none

/-- The reset state of an instance with capacities `p` (R33, R119): all registers and hidden counters 0, no buffer byte
defined. The model's own fields start empty and at 0 (notes/assumptions/8.md). -/
def State.resetFor (p : Params) : State where
  cmd := 0
  status := Status.reset
  klen := 0
  ilen := 0
  olen := 0
  opa := 0
  opb := 0
  ha := 0
  hb := 0
  hc := 0
  key := []
  inp := []
  out := []
  pos := 0
  kidx := 0
  params := p
  agenda := []
  seen := []
  resetDraw := 0
  outDraw := 0

/-- The machine right after reset, with the suggested capacities of R5 (notes/assumptions/1.md). -/
def State.reset : State := State.resetFor Config.suggested

end Sys2Proof.Machine
end

