-- ==== Sys2Proof/Machine/Flags.lean ====
section
/-! DEFINITION. Register STATUS: the numbers of its fields (`10_state.md` R14, R18) and every value the unit gives them
(`30_encoding.md` R53, R54; `60_exceptions.md` R110). -/

namespace Sys2Proof.Machine

/-- The fault codes of R18 and R102. -/
def FaultCode.code : FaultCode → BitVec 4
  | .invalidKey => 1#4
  | .malformedMessage => 2#4
  | .illegalCommand => 3#4
  | .capacity => 4#4

/-- Field ERR: 0 without a fault, else the fault's code (R18). -/
def Status.errField (st : Status) : BitVec 4 :=
  match st.err with
  | none => 0#4
  | some f => f.code

/-- STATUS as the host reads it (R14): bits 31:8 zero, ERR in 7:4, bit 3 zero, VALID in 2, DONE in 1, BUSY in 0. -/
def Status.toWord (st : Status) : Word :=
  0#24 ++ st.errField ++ 0#1 ++ BitVec.ofBool st.valid ++ BitVec.ofBool st.done ++ BitVec.ofBool st.busy

/-- STATUS after the command start (R53). -/
def Status.started : Status where
  busy := true
  done := false
  valid := false
  err := none

/-- STATUS after a command that completes without a fault; only a CHECK whose checksum holds gives `valid` true (R17, R54). -/
def Status.completed (valid : Bool) : Status where
  busy := false
  done := true
  valid := valid
  err := none

/-- STATUS after fault entry (R110). -/
def Status.faulted (f : FaultCode) : Status where
  busy := false
  done := true
  valid := false
  err := some f

end Sys2Proof.Machine
end

