-- ==== Sys2Proof/Machine/Ops.lean ====
section
/-! DEFINITION. The named operations over buffers, registers and the datapath that every command and every host access is
made of, with fault entry, which every command shares. -/

namespace Sys2Proof.Machine

/-! ### One buffer -/

/-- The byte at an index, where one is defined. -/
def Memory.read : Memory → Nat → Option Byte
  | [], _ => none
  | (j, v) :: m, i => if i = j then some v else Memory.read m i

/-- Write one byte, keeping the indices strictly rising. -/
def Memory.write : Memory → Nat → Byte → Memory
  | [], i, v => [(i, v)]
  | (j, u) :: m, i, v =>
    if i < j then (i, v) :: (j, u) :: m
    else if i = j then (i, v) :: m
    else (j, u) :: Memory.write m i v

/-- Indices strictly rise and none is below `lo`. -/
def Memory.risesFrom : Nat → Memory → Bool
  | _, [] => true
  | lo, (j, _) :: m => decide (lo ≤ j) && Memory.risesFrom (j + 1) m

/-- The canonical form: indices strictly rise. An unlisted index has no value, so no entry can equal it. -/
def Memory.wf (m : Memory) : Bool := Memory.risesFrom 0 m

/-- Every listed index is below `n`. -/
def Memory.below (m : Memory) (n : Nat) : Bool := m.all fun c => decide (c.1 < n)

/-- A byte sequence laid out from index `k` on. -/
def indexBytes : Nat → List Byte → Memory
  | _, [] => []
  | k, b :: bs => (k, b) :: indexBytes (k + 1) bs

/-! ### The buffers of a state -/

/-- The defined bytes of a space. -/
def State.buffer (s : State) : Space → Memory
  | .key => s.key
  | .inp => s.inp
  | .out => s.out

/-- What an undefined byte of a space reads as, the ONE definition of it: a free value. KEY and IN bytes keep theirs from
one reset to the next (R34), OUT bytes from one completion to the next (R27). -/
def State.undefinedByte (s : State) : Space → Nat → Byte
  | .key, i => Config.freeByte s.resetDraw .key i
  | .inp, i => Config.freeByte s.resetDraw .inp i
  | .out, i => Config.freeByte s.outDraw .out i

/-- `MemRead(S, i, 1)` (R9): the byte of a space at an index. -/
def State.readBuf (s : State) (sp : Space) (i : Nat) : Byte :=
  ((s.buffer sp).read i).getD (s.undefinedByte sp i)

/-- A host write of one byte: KEY and IN take it, OUT ignores it (R44). -/
def State.writeBuf (s : State) (sp : Space) (i : Nat) (v : Byte) : State :=
  match sp with
  | .key => { s with key := s.key.write i v }
  | .inp => { s with inp := s.inp.write i v }
  | .out => s

/-! ### Registers -/

/-- The value of register `n`, for the ten that exist (R12, R41). OPA and OPB read zero-extended (R22). -/
def State.readReg (s : State) : Nat → Option Word
  | 0 => some s.cmd
  | 1 => some s.status.toWord
  | 2 => some s.klen
  | 3 => some s.ilen
  | 4 => some s.olen
  | 5 => some (s.opa.setWidth 32)
  | 6 => some (s.opb.setWidth 32)
  | 7 => some s.ha
  | 8 => some s.hb
  | 9 => some s.hc
  | _ => none

/-- Command start (R53): the word goes to CMD, STATUS shows BUSY, the hidden counters are cleared, nothing else changes. -/
def startCommand (w : Word) (s : State) : State :=
  { s with cmd := w, status := Status.started, pos := 0, kidx := 0 }

/-- What a host write to register `n` does, for the ten that exist (R42): CMD starts a command, KLEN and ILEN take all 32
bits, OPA and OPB bits 15:0 (R22), the other five ignore it. -/
def State.writeReg (s : State) (n : Nat) (v : Word) : Option State :=
  match n with
  | 0 => some (startCommand v s)
  | 1 => some s
  | 2 => some { s with klen := v }
  | 3 => some { s with ilen := v }
  | 4 => some s
  | 5 => some { s with opa := v.setWidth 16 }
  | 6 => some { s with opb := v.setWidth 16 }
  | 7 => some s
  | 8 => some s
  | 9 => some s
  | _ => none

/-- A host read hands its value to the host and changes nothing of the unit (R41, R43). -/
def State.observe (s : State) (o : Observation) : State := { s with seen := o :: s.seen }

/-- The state with the events to come replaced. -/
def State.withAgenda (s : State) (es : List Event) : State := { s with agenda := es }

/-! ### The datapath -/

/-- The hidden counters as a command start leaves them (R29; notes/assumptions/15.md). -/
def State.clearCounters (s : State) : State := { s with pos := 0, kidx := 0 }

/-- The counters after one byte: `POS + 1`, and KIDX one on or back to 0 at KLEN (R29, R76). -/
def State.advance (s : State) : State :=
  { s with pos := s.pos + 1, kidx := if s.kidx + 1 = s.klen.toNat then 0 else s.kidx + 1 }

/-- One byte step of R76: the source byte combined with `KEY[KIDX]`, then the counters move on. -/
def byteStep (dir : Direction) (x : Byte) (s : State) : Byte × State :=
  (dir.apply x (s.readBuf .key s.kidx), s.advance)

/-- The byte steps over a source sequence in ascending order (R76); the result bytes in that order, and the state with the
counters where they end. -/
def transform (dir : Direction) : List Byte → State → List Byte × State
  | [], s => ([], s)
  | x :: xs, s =>
    let first := byteStep dir x s
    let rest := transform dir xs first.2
    (first.1 :: rest.1, rest.2)

/-! ### How a command completes -/

/-- Completion without a fault (R54): the header registers, the result in `OUT[0..OLEN)`, OLEN its length, VALID as given,
BUSY = 0, DONE = 1. OUT at and above OLEN is undefined afterwards, "never zero, never unchanged" (R27, U4), so nothing of
an earlier result stays listed and the free values move on. -/
def deliver (valid : Bool) (h : Header) (result : List Byte) (s : State) : State :=
  { s with
    status := Status.completed valid
    olen := BitVec.ofNat 32 result.length
    ha := h.a
    hb := h.b
    hc := h.c
    out := indexBytes 0 result
    outDraw := s.outDraw + 1 }

/-- Fault entry (R110), shared by every command and every fault: ERR is the fault, VALID, OLEN, HA, HB, HC are 0, BUSY = 0,
DONE = 1. CMD and the inputs stay, and no byte of OUT is defined afterwards (R27). -/
def takeFault (f : FaultCode) (s : State) : State :=
  { s with
    status := Status.faulted f
    olen := 0
    ha := 0
    hb := 0
    hc := 0
    out := []
    outDraw := s.outDraw + 1 }

/-- `op in {DECRYPT, CHECK}` of R108: the commands whose input must hold a header (R104). -/
def needsHeader : Instr → Bool
  | .shiftEnc => false
  | .shiftDec => false
  | .encrypt => false
  | .decrypt => true
  | .check => true

/-- `FaultCheck()` of R108 for a legal command, in its fixed order; the first that fires is taken. Its first line,
IllegalCommand, is where the word in CMD is decoded (`completeCommand`; notes/assumptions/16.md). -/
def faultCheck (i : Instr) (s : State) : Option FaultCode :=
  if s.params.keyMax < s.klen.toNat ∨ s.params.inMax < s.ilen.toNat then some .capacity
  else if needsHeader i = true ∧ s.ilen.toNat < hdrLen then some .malformedMessage
  else if s.klen = 0 then some .invalidKey
  else none

/-- The completion step of a legal command (R54): fault entry when a check fires, else the command's own rule. -/
def completeUnlessFault (i : Instr) (own : State → State) (s : State) : Host.Outcome State Fault Refusal :=
  match faultCheck i s with
  | some f => .next (takeFault f s)
  | none => .next (own s)

/-- Reset (R119, R120): the reset state of the same instance, whatever the unit was doing. The host keeps what it has read
and the events to come; the buffers are undefined afresh (notes/assumptions/8.md). -/
def takeReset (s : State) : State :=
  { State.resetFor s.params with
    agenda := s.agenda
    seen := s.seen
    resetDraw := s.resetDraw + 1
    outDraw := s.outDraw + 1 }

end Sys2Proof.Machine
end

