-- ==== Sys2Proof/Machine/Operands.lean ====
section
/-! DEFINITION. The implicit operands of the commands (`30_encoding.md` R57, `20_memory.md` R47). -/

namespace Sys2Proof.Machine

/-- `len` bytes of IN from index `lo` on. -/
def State.inputSlice (s : State) (lo len : Nat) : List Byte :=
  (List.range' lo len).map (s.readBuf .inp)

/-- `IN[0..ILEN)`, a command's input (R20). -/
def State.input (s : State) : List Byte := s.inputSlice 0 s.ilen.toNat

/-- `KEY[0..KLEN)`, the password (R19, R25). -/
def State.password (s : State) : List Byte :=
  (List.range s.klen.toNat).map (s.readBuf .key)

/-- `OUT[0..OLEN)`, the result of the last command (R21, R27). -/
def State.result (s : State) : List Byte :=
  (List.range s.olen.toNat).map (s.readBuf .out)

/-- The header ENCRYPT builds from OPA and OPB (R78). -/
def State.builtHeader (s : State) : Header := headerOf s.opa s.opb

/-- `pre`, what the ENCRYPT transform runs over: the header bytes, then the plaintext (R38, R78). -/
def State.preCipher (s : State) : List Byte := s.builtHeader.bytes ++ s.input

end Sys2Proof.Machine
end

