-- ==== Sys2Proof/Machine/Check.lean ====
section
/-! DEFINITION. CHECK (`43_check.md` R92). -/

namespace Sys2Proof.Machine

/-- Decode the 12 header bytes and parse them; stop with VALID = 0 and OLEN = 0 when the checksum fails, else go on from
position 12 with the password cycle continuing and VALID = 1 (R92, R94). -/
def checkInput (s : State) : State :=
  let head := transform .dec (s.inputSlice 0 hdrLen) s.clearCounters
  let h := parseHeader head.1
  if checksumOk h then
    let body := transform .dec (s.inputSlice hdrLen (s.ilen.toNat - hdrLen)) head.2
    deliver true h body.1 body.2
  else
    deliver false h [] head.2

/-- CHECK (R92). -/
def execCheck (s : State) : Host.Outcome State Fault Refusal :=
  completeUnlessFault .check checkInput s

end Sys2Proof.Machine
end

