-- ==== Sys2Proof/Machine/Decrypt.lean ====
section
/-! DEFINITION. DECRYPT (`42_decrypt.md` R85). -/

namespace Sys2Proof.Machine

/-- The transform over the whole message, its first 12 result bytes dropped, no header examined (R85). -/
def decryptInput (s : State) : State :=
  let r := transform .dec s.input s.clearCounters
  deliver false Header.zero (r.1.drop hdrLen) r.2

/-- DECRYPT (R85): `OUT[0..ILEN-12) = Shift(DEC, IN[0..ILEN), KEY[0..KLEN))[12..ILEN)`. -/
def execDecrypt (s : State) : Host.Outcome State Fault Refusal :=
  completeUnlessFault .decrypt decryptInput s

end Sys2Proof.Machine
end

