-- ==== Sys2Proof/Machine/Encrypt.lean ====
section
/-! DEFINITION. ENCRYPT (`41_encrypt.md` R78). -/

namespace Sys2Proof.Machine

/-- The transform over the whole pre-cipher buffer, header included, the password cycle starting at header byte 0 (R78). -/
def encryptInput (s : State) : State :=
  let r := transform .enc s.preCipher s.clearCounters
  deliver false s.builtHeader r.1 r.2

/-- ENCRYPT (R78): `OUT[0..ILEN+12) = Shift(ENC, BuildHeader(OPA, OPB) ++ IN[0..ILEN), KEY[0..KLEN))`. -/
def execEncrypt (s : State) : Host.Outcome State Fault Refusal :=
  completeUnlessFault .encrypt encryptInput s

end Sys2Proof.Machine
end

