-- ==== Sys2Proof/Machine/Transform.lean ====
section
/-! DEFINITION. SHIFT_ENC and SHIFT_DEC (`40_transform.md` R70 to R73). -/

namespace Sys2Proof.Machine

/-- The raw transform over `IN[0..ILEN)`: OLEN is ILEN, HA, HB, HC and VALID are 0 (R70, R71). -/
def shiftInput (dir : Direction) (s : State) : State :=
  let r := transform dir s.input s.clearCounters
  deliver false Header.zero r.1 r.2

/-- SHIFT_ENC (R70): `OUT[0..ILEN) = Shift(ENC, IN[0..ILEN), KEY[0..KLEN))`. -/
def execShiftEnc (s : State) : Host.Outcome State Fault Refusal :=
  completeUnlessFault .shiftEnc (shiftInput .enc) s

/-- SHIFT_DEC (R71): `OUT[0..ILEN) = Shift(DEC, IN[0..ILEN), KEY[0..KLEN))`. -/
def execShiftDec (s : State) : Host.Outcome State Fault Refusal :=
  completeUnlessFault .shiftDec (shiftInput .dec) s

end Sys2Proof.Machine
end

