-- ==== Sys2Proof/Machine/Dispatch.lean ====
section
/-! DEFINITION. One arm for each command (`30_encoding.md` R54, R56). -/

namespace Sys2Proof.Machine

def exec (i : Instr) (s : State) : Host.Outcome State Fault Refusal :=
  match i with
  | .shiftEnc => Sys2Proof.Machine.execShiftEnc s
  | .shiftDec => Sys2Proof.Machine.execShiftDec s
  | .encrypt => Sys2Proof.Machine.execEncrypt s
  | .decrypt => Sys2Proof.Machine.execDecrypt s
  | .check => Sys2Proof.Machine.execCheck s

end Sys2Proof.Machine
end

