-- ==== Sys2Proof/Decode.lean ====
section
/-! DEFINITION. Decoding a command word (`30_encoding.md` R55 to R59) and encoding a command. Commands are words written to
register CMD; they are not stored in any memory, so the decoder reads one 32-bit word and there are no bytes to order
(R37, R51). -/

namespace Sys2Proof

/-- Field OP, bits 7:0 of a command word (R55). -/
def opField (w : Word) : BitVec 8 := w.extractLsb' 0 8

/-- Field RSV, bits 31:8 of a command word, reserved, must be zero (R55). -/
def rsvField (w : Word) : BitVec 24 := w.extractLsb' 8 24

/-- Why a word is no command: the two branches of R58 that answer Illegal. -/
inductive Illegal where
  /-- `w[31:8] != 0`. -/
  | reservedNotZero
  /-- RSV is zero and OP is none of 0x01 to 0x05. -/
  | unassignedOp
deriving DecidableEq, Repr

/-- `Decode(w)` of R58: total on 32-bit words, Illegal answered by name. -/
def decodeWord (w : Word) : Except Illegal Instr :=
  if rsvField w ≠ 0#24 then .error .reservedNotZero
  else if opField w = 0x01#8 then .ok .shiftEnc
  else if opField w = 0x02#8 then .ok .shiftDec
  else if opField w = 0x03#8 then .ok .encrypt
  else if opField w = 0x04#8 then .ok .decrypt
  else if opField w = 0x05#8 then .ok .check
  else .error .unassignedOp

/-- The operation codes of R56. -/
def opcode : Instr → BitVec 8
  | .shiftEnc => 0x01#8
  | .shiftDec => 0x02#8
  | .encrypt => 0x03#8
  | .decrypt => 0x04#8
  | .check => 0x05#8

/-- The command word of a command: OP in bits 7:0 and RSV = 0 (R55, R56). -/
def encode (i : Instr) : Word := (opcode i).setWidth 32

/-- The mask of every row of the opcode table (R56). -/
def tableMask : Word := 0xFFFFFFFF#32

/-- The command words that R56 prints, each row's `match`. -/
def tableMatch : Instr → Word
  | .shiftEnc => 0x00000001#32
  | .shiftDec => 0x00000002#32
  | .encrypt => 0x00000003#32
  | .decrypt => 0x00000004#32
  | .check => 0x00000005#32

/-- The command word whose low `nbits` bits are those of `w` and whose other bits are zero (notes/assumptions/11.md). -/
def tableWord (nbits w : Nat) : Word := BitVec.ofNat 32 (w % 2 ^ nbits)

/-- The instruction the decoder reads from a word given as the opcode table numbers its bits. There is one command
length, 32 bits (R55). -/
def decodeTableWord (nbits w : Nat) : Option Instr :=
  match decodeWord (tableWord nbits w) with
  | .ok i => some i
  | .error _ => none

end Sys2Proof
end

