-- ==== Sys2Proof/Machine/HostPort.lean ====
section
/-! DEFINITION. The host's accesses while the unit is idle (`20_memory.md` R41 to R46) and the script lines that expand to
them (`30_encoding.md` R60, R61). -/

namespace Sys2Proof.Machine

/-- One host access delivered while `BUSY = 0`; what is outside the interface is refused (R45). -/
def hostAccess (a : HostAccess) (s : State) : Host.Outcome State Fault Refusal :=
  match a with
  | .regRead n =>
    match s.readReg n with
    | some v => .next (s.observe (.reg n v))
    | none => .refused (.noSuchRegister n)
  | .regWrite n v =>
    match s.writeReg n v with
    | some t => .next t
    | none => .refused (.noSuchRegister n)
  | .bufRead sp i =>
    if i < s.params.capacity sp then .next (s.observe (.byte sp i (s.readBuf sp i)))
    else .refused (.noSuchIndex sp i)
  | .bufWrite sp i v =>
    if i < s.params.capacity sp then .next (s.writeBuf sp i v)
    else .refused (.noSuchIndex sp i)

/-- A STATUS read: allowed at any time, without side effect (R41, R124). -/
def pollStatus (s : State) : State := s.observe (.reg 1 s.status.toWord)

/-- The script line of one access, as an event. -/
def lineOf (a : HostAccess) : Event := .host (.access a)

/-- `wb S[k], b0`, `wb S[k+1], b1`, …: the byte writes of a `key` or `msg` line (R61). -/
def writeLines (sp : Space) : Nat → List Byte → List Event
  | _, [] => []
  | k, b :: bs => lineOf (.bufWrite sp k b) :: writeLines sp (k + 1) bs

/-- `key b0 … b(n-1)`: the byte writes, then `wr KLEN, n` (R61). -/
def keyLines (bytes : List Byte) : List Event :=
  writeLines .key 0 bytes ++ [lineOf (.regWrite 2 (BitVec.ofNat 32 bytes.length))]

/-- `msg b0 … b(n-1)`: the byte writes, then `wr ILEN, n` (R61). -/
def msgLines (bytes : List Byte) : List Event :=
  writeLines .inp 0 bytes ++ [lineOf (.regWrite 3 (BitVec.ofNat 32 bytes.length))]

/-- `ops a, b`: `wr OPA, a` then `wr OPB, b` (R61). -/
def opsLines (a b : Word) : List Event := [lineOf (.regWrite 5 a), lineOf (.regWrite 6 b)]

/-- `run MNEMONIC`: `cmd MNEMONIC` then `wait` (R61). -/
def runLines (i : Instr) (polls : Nat) : List Event :=
  [lineOf (.regWrite 0 (encode i)), .host (.wait polls)]

/-- `out`: `rd OLEN`, then `rb OUT[0]` … `rb OUT[OLEN-1]` (R61). -/
def outLines (s : State) : List Event :=
  lineOf (.regRead 4) :: (List.range s.olen.toNat).map fun i => lineOf (.bufRead .out i)

/-- `mov`: `rd OLEN`, for each `i < OLEN` `rb OUT[i]` and `wb IN[i]` with the byte read, then `wr ILEN` with the OLEN read
(R61). OUT does not change while the host copies (R123), so the bytes are those of the state the line starts in. -/
def movLines (s : State) : List Event :=
  lineOf (.regRead 4) ::
    ((List.range s.olen.toNat).flatMap fun i =>
      [lineOf (.bufRead .out i), lineOf (.bufWrite .inp i (s.readBuf .out i))]) ++
    [lineOf (.regWrite 3 s.olen)]

/-- The document's call `encrypt(plaintext, password)` with random values `a`, `b`, as a script (R62). -/
def encryptCall (password plaintext : List Byte) (a b : Word) (polls : Nat) : List Event :=
  [.host (.key password), .host (.msg plaintext), .host (.ops a b), .host (.run .encrypt polls), .host .out]

/-- The document's call `decrypt(encoded, password)`, as a script (R62). -/
def decryptCall (password encoded : List Byte) (polls : Nat) : List Event :=
  [.host (.key password), .host (.msg encoded), .host (.run .decrypt polls), .host .out]

/-- The document's call `check(encoded, password)`, as a script (R62). -/
def checkCall (password encoded : List Byte) (polls : Nat) : List Event :=
  [.host (.key password), .host (.msg encoded), .host (.run .check polls), lineOf (.regRead 1), .host .out]

/-- A script line at an idle unit (the line already taken off the agenda). A pseudo-line puts what it expands to in front of
the events to come. A `wait` needs no more than the read that shows `BUSY = 0` (R60; notes/assumptions/6.md). -/
def idleLine (l : ScriptLine) (s : State) : Host.Outcome State Fault Refusal :=
  match l with
  | .access a => hostAccess a s
  | .wait _ => .next (pollStatus s)
  | .key bytes => .next (s.withAgenda (keyLines bytes ++ s.agenda))
  | .msg bytes => .next (s.withAgenda (msgLines bytes ++ s.agenda))
  | .ops a b => .next (s.withAgenda (opsLines a b ++ s.agenda))
  | .run i polls => .next (s.withAgenda (runLines i polls ++ s.agenda))
  | .out => .next (s.withAgenda (outLines s ++ s.agenda))
  | .mov =>
    if s.olen.toNat ≤ s.params.inMax then .next (s.withAgenda (movLines s ++ s.agenda))
    else .refused .movTooLong

end Sys2Proof.Machine
end

