-- ==== Sys2Proof/Machine/Sequencer.lean ====
section
/-! DEFINITION. Which agent moves, and the unit's completion step (`30_encoding.md` R54; `70_reset_and_hazards.md` R124,
R126). -/

namespace Sys2Proof.Machine

/-- The completion step (R54) on the word in CMD: an illegal word enters the fault IllegalCommand, which R108 tests first; a
legal one completes as its command says. -/
def completeCommand (s : State) : Host.Outcome State Fault Refusal :=
  match decodeWord s.cmd with
  | .ok i => exec i s
  | .error _ => .next (takeFault .illegalCommand s)

/-- A script line while `BUSY = 1` (the line already taken off the agenda): the host may read STATUS and nothing else
(R124). A `wait` reads it as often as its count says; then the unit completes, and the wait goes on to its last read. -/
def busyLine (l : ScriptLine) (s : State) : Host.Outcome State Fault Refusal :=
  match l with
  | .access (.regRead 1) => .next (pollStatus s)
  | .wait (k + 1) => .next ((pollStatus s).withAgenda (.host (.wait k) :: s.agenda))
  | .wait 0 => completeCommand (s.withAgenda (.host (.wait 0) :: s.agenda))
  | .access _ => .refused .hostAccessWhileBusy
  | .key _ => .refused .hostAccessWhileBusy
  | .msg _ => .refused .hostAccessWhileBusy
  | .ops _ _ => .refused .hostAccessWhileBusy
  | .run _ _ => .refused .hostAccessWhileBusy
  | .out => .refused .hostAccessWhileBusy
  | .mov => .refused .hostAccessWhileBusy

/-- The unit's turn: the completion step while `BUSY = 1`, nothing while it is idle (R54, R117). -/
def unitTurn (s : State) : Host.Outcome State Fault Refusal :=
  if s.status.busy then completeCommand s else .next s

/-- One step: the next event happens. With no event left a started command still completes, as R54 and R126 require, and
an idle unit stays as it is (notes/assumptions/4.md, 5.md). -/
def nextEvent (s : State) : Host.Outcome State Fault Refusal :=
  match s.agenda with
  | [] => unitTurn s
  | .unit :: es => unitTurn (s.withAgenda es)
  | .reset :: es => .next (takeReset (s.withAgenda es))
  | .host l :: es =>
    if s.status.busy then busyLine l (s.withAgenda es) else idleLine l (s.withAgenda es)

/-- `s` with the command word `w` delivered to CMD and the unit's turn next (notes/assumptions/11.md). -/
def presentCommand (w : Word) (s : State) : State :=
  (startCommand w s).withAgenda (.unit :: s.agenda)

end Sys2Proof.Machine
end

