-- ==== Sys2Proof/Machine/Step.lean ====
section
/-! DEFINITION. The machine's one step, and how a command word is put where the next step runs it. -/

namespace Sys2Proof.Machine

/-- One step of the machine: one event at the unit's interface (`Sequencer.lean`). -/
def step (s : State) : Host.Outcome State Fault Refusal := nextEvent s

/-- `s` with a command word delivered to CMD by a host write, as R53 has it, and the unit's turn next: the next step is that
command's completion. `w`'s low `nbits` bits are the word's. -/
def State.withFetchWord (s : State) (nbits w : Nat) : State := presentCommand (tableWord nbits w) s

end Sys2Proof.Machine
end

