-- ==== Sys2Proof/WellFormed.lean ====
section
/-! DEFINITION. Which terms are well formed: command words, commands, and host accesses within the unit's interface. -/

namespace Sys2Proof

/-- A command word is well formed when RSV is zero and OP is one of the five codes (R55, R56, R59). -/
def wordWellFormed (w : Word) : Bool :=
  rsvField w == 0#24 && decide (1 ≤ (opField w).toNat) && decide ((opField w).toNat ≤ 5)

/-- A command carries no operand field (R57), so what there is to check of it is its word. -/
def Instr.wellFormed (i : Instr) : Bool := wordWellFormed (encode i)

/-- A host access is within the interface when its register number is at most 9 (R24) and its index below the space's
capacity (R45). -/
def Machine.HostAccess.wellFormed (p : Params) : Machine.HostAccess → Bool
  | .regRead n => decide (n ≤ 9)
  | .regWrite n _ => decide (n ≤ 9)
  | .bufRead sp i => decide (i < p.capacity sp)
  | .bufWrite sp i _ => decide (i < p.capacity sp)

end Sys2Proof
end

