-- ==== Sys2Proof/Safety.lean ====
section
/-! DEFINITION. The terms claims are stated in: when a command has its own effect, what a command keeps, what two states
share, the invariant of the machine, and what is observable at the end of a run. -/

namespace Sys2Proof.Machine

/-- No fault check of R108 fires for command `i`: `1 <= KLEN <= KEY_MAX`, `ILEN <= IN_MAX`, and `ILEN >= 12` for DECRYPT and
CHECK. The precondition of R70, R71, R78, R85, R92. -/
structure Ready (i : Instr) (s : State) : Prop where
  klen_pos : 1 ≤ s.klen.toNat
  klen_le : s.klen.toNat ≤ s.params.keyMax
  ilen_le : s.ilen.toNat ≤ s.params.inMax
  has_header : needsHeader i = true → 12 ≤ s.ilen.toNat

/-- `t` has the input state of `s` (R31): KLEN, ILEN, OPA, OPB and every byte of KEY and IN; and the instance's capacities. -/
structure SameInput (s t : State) : Prop where
  params : t.params = s.params
  klen : t.klen = s.klen
  ilen : t.ilen = s.ilen
  opa : t.opa = s.opa
  opb : t.opb = s.opb
  key : ∀ i, t.readBuf .key i = s.readBuf .key i
  inp : ∀ i, t.readBuf .inp i = s.readBuf .inp i

/-- The frame of a command: its input state, CMD, the events to come and what the host has read are unchanged. What it may
change is STATUS, OLEN, HA, HB, HC, OUT and the hidden counters (R31, R32, R110). -/
structure CommandFrame (s t : State) : Prop where
  inputs : SameInput s t
  cmd : t.cmd = s.cmd
  agenda : t.agenda = s.agenda
  seen : t.seen = s.seen
  resetDraw : t.resetDraw = s.resetDraw

/-- `t` agrees with `s` on the input state of a command as R31 has it: KLEN, ILEN, OPA, OPB, `KEY[0..KLEN)` and
`IN[0..ILEN)`, no other byte. -/
structure AgreeOnInput (s t : State) : Prop where
  params : t.params = s.params
  klen : t.klen = s.klen
  ilen : t.ilen = s.ilen
  opa : t.opa = s.opa
  opb : t.opb = s.opb
  key : ∀ i, i < s.klen.toNat → t.readBuf .key i = s.readBuf .key i
  inp : ∀ i, i < s.ilen.toNat → t.readBuf .inp i = s.readBuf .inp i

/-- `t` has the output state of `s` (R32): STATUS, OLEN, HA, HB, HC and `OUT[0..OLEN)`. -/
structure SameOutput (s t : State) : Prop where
  status : t.status = s.status
  olen : t.olen = s.olen
  ha : t.ha = s.ha
  hb : t.hb = s.hb
  hc : t.hc = s.hc
  out : ∀ i, i < s.olen.toNat → t.readBuf .out i = s.readBuf .out i

/-- `t` is `s` after fault entry with code `f` (R110): ERR is the code, VALID = 0, BUSY = 0, DONE = 1, OLEN, HA, HB, HC are
0, no byte of OUT is defined, and nothing else changed. -/
structure FaultEntered (f : FaultCode) (s t : State) : Prop where
  err : t.status.err = some f
  valid : t.status.valid = false
  busy : t.status.busy = false
  done : t.status.done = true
  olen : t.olen = 0
  ha : t.ha = 0
  hb : t.hb = 0
  hc : t.hc = 0
  out : ∀ i, t.out.read i = none
  frame : CommandFrame s t
  pos : t.pos = s.pos
  kidx : t.kidx = s.kidx

/-- `t` shows a command that completed without a fault and with VALID as given: ERR = 0, BUSY = 0, DONE = 1 (R54). -/
structure CompletedWith (valid : Bool) (t : State) : Prop where
  err : t.status.err = none
  valid_eq : t.status.valid = valid
  busy : t.status.busy = false
  done : t.status.done = true

/-- `t` is `s` after the host copied the last result to the input (R61 `mov`, R128): KEY and KLEN as they were,
`IN[0..OLEN) = OUT[0..OLEN)` and `ILEN = OLEN`. -/
structure ResultMovedToInput (s t : State) : Prop where
  params : t.params = s.params
  klen : t.klen = s.klen
  key : ∀ i, i < s.klen.toNat → t.readBuf .key i = s.readBuf .key i
  ilen : t.ilen = s.olen
  inp : ∀ i, i < s.olen.toNat → t.readBuf .inp i = s.readBuf .out i

/-- The host has written every input byte of the next command since reset (R132), so no free value takes part in it. -/
def InputsWritten (s : State) : Prop :=
  (∀ i, i < s.klen.toNat → (s.key.read i).isSome = true) ∧
  (∀ i, i < s.ilen.toNat → (s.inp.read i).isSome = true)

/-- The machine's invariant, kept by every step (R14 to R18, R21 to R23, R25 to R27, R29, U9). -/
structure Inv (s : State) : Prop where
  /-- Each buffer is in its canonical form and within its space. -/
  key_wf : s.key.wf = true
  inp_wf : s.inp.wf = true
  out_wf : s.out.wf = true
  key_below : s.key.below s.params.keyMax = true
  inp_below : s.inp.below s.params.inMax = true
  /-- OUT is defined exactly below OLEN (R27). -/
  out_defined : ∀ i, (s.out.read i).isSome = true ↔ i < s.olen.toNat
  /-- `OLEN <= OUT_MAX` (R21). -/
  olen_le : s.olen.toNat ≤ s.params.outMax
  /-- A STATUS read during BUSY returns BUSY = 1, DONE = 0, VALID = 0, ERR = 0 (R124), and the hidden counters are as the
  command start left them (R53). -/
  busy_started : s.status.busy = true → s.status = Status.started ∧ s.pos = 0 ∧ s.kidx = 0
  /-- Before the first completion the output registers hold their reset values (R16). -/
  fresh : s.status.done = false →
    s.status.valid = false ∧ s.status.err = none ∧
      (s.status.busy = false → s.olen = 0 ∧ s.ha = 0 ∧ s.hb = 0 ∧ s.hc = 0)
  /-- VALID = 1 only after a completed CHECK whose header satisfied the checksum (R14, R17). -/
  valid_header : s.status.valid = true →
    s.status.done = true ∧ s.status.err = none ∧ mul32 s.ha s.hb = s.hc
  /-- A fault leaves no result (R110). -/
  err_no_result : s.status.err ≠ none →
    s.status.done = true ∧ s.olen = 0 ∧ s.ha = 0 ∧ s.hb = 0 ∧ s.hc = 0

/-- `k` steps in a row, stopping at the first refusal: `Host.Core.run` of this machine, over its own state type. -/
def runSteps : Nat → State → Host.Outcome State Fault Refusal
  | 0, s => .next s
  | k + 1, s =>
    match step s with
    | .next t => runSteps k t
    | .fault r => .fault r
    | .refused r => .refused r

/-- A run has ended when its script has been performed and `BUSY = 0` (R131). -/
def RunEnded (s : State) : Prop := s.agenda = [] ∧ s.status.busy = false

/-- The observable end state of R131: the ten registers, KEY and IN as last written by the host, and `OUT[0..OLEN)`. -/
structure EndState where
  registers : List (Option Word)
  key : Memory
  inp : Memory
  out : List Byte
deriving DecidableEq, Repr

/-- The observable end state of a state (R131). -/
def State.endState (s : State) : EndState where
  registers := (List.range 10).map s.readReg
  key := s.key
  inp := s.inp
  out := s.result

/-- What a finished command means to the host (R112, R122). -/
inductive Verdict where
  /-- `ERR != 0`: the raised fault. -/
  | raised (f : FaultCode)
  /-- `ERR = 0` and, for CHECK, `VALID = 0`: WrongPassword, no fault (R96). -/
  | wrongPassword
  /-- Otherwise the result is `OUT[0..OLEN)`. -/
  | result (bytes : List Byte)
deriving DecidableEq, Repr

/-- The verdict the host reads from STATUS, and from OUT where there is a result (R112). -/
def State.verdict (s : State) : Verdict :=
  match s.status.err with
  | some f => .raised f
  | none =>
    if s.cmd = encode .check ∧ s.status.valid = false then .wrongPassword else .result s.result

/-- The next event is a move the host has (R124, R132), so the step is no refusal: nothing but STATUS reads while `BUSY = 1`,
accesses within the interface, and `mov` only when the result fits IN. -/
def AllowedNext (s : State) : Prop :=
  match s.agenda with
  | [] => True
  | .unit :: _ => True
  | .reset :: _ => True
  | .host l :: _ =>
    if s.status.busy then
      match l with
      | .access (.regRead n) => n = 1
      | .wait _ => True
      | _ => False
    else
      match l with
      | .access a => a.wellFormed s.params = true
      | .mov => s.olen.toNat ≤ s.params.inMax
      | _ => True

end Sys2Proof.Machine
end

