-- ==== Sys2Proof/Certificates/Slice0/Obligations.lean ====
section
/-! DEFINITION. The statements for the provers, from the numbered rules of spec/. Each holds for every instance of the unit,
since the capacities stand in the state, and for every free value. -/

open Sys2Proof Sys2Proof.Machine

/-! ### Encoding -/

/-- The five command words, written out bit by bit from R55 and R56, decode to their commands (R58). -/
def Obligations.CommandWordsDecode : Prop :=
  decodeTableWord 32 0b00000000000000000000000000000001 = some .shiftEnc ∧
  decodeTableWord 32 0b00000000000000000000000000000010 = some .shiftDec ∧
  decodeTableWord 32 0b00000000000000000000000000000011 = some .encrypt ∧
  decodeTableWord 32 0b00000000000000000000000000000100 = some .decrypt ∧
  decodeTableWord 32 0b00000000000000000000000000000101 = some .check

/-- R56: a word is a command exactly when `w & mask == match`, with the table's mask and its five command words. -/
def Obligations.WordIsCommandExactlyWhenItMatches : Prop :=
  ∀ (w : Word),
    (decodeWord w = .ok .shiftEnc ↔ w &&& 0xFFFFFFFF#32 = 0x00000001#32) ∧
    (decodeWord w = .ok .shiftDec ↔ w &&& 0xFFFFFFFF#32 = 0x00000002#32) ∧
    (decodeWord w = .ok .encrypt ↔ w &&& 0xFFFFFFFF#32 = 0x00000003#32) ∧
    (decodeWord w = .ok .decrypt ↔ w &&& 0xFFFFFFFF#32 = 0x00000004#32) ∧
    (decodeWord w = .ok .check ↔ w &&& 0xFFFFFFFF#32 = 0x00000005#32)

/-- R59, R105: every word other than 1 to 5 is illegal, and those five are not. A host write of any word to CMD is accepted,
and its completion faults with IllegalCommand exactly for the illegal ones, entered as R110 says. -/
def Obligations.IllegalWordsFault : Prop :=
  ∀ w : Word,
    ((∃ e, decodeWord w = .error e) ↔ w.toNat = 0 ∨ 5 < w.toNat) ∧
    ∀ (s : State) (es : List Event), s.status.busy = false →
      s.agenda = .host (.access (.regWrite 0 w)) :: .unit :: es →
      ∃ t, runSteps 2 s = .next t ∧
        (t.status.err = some .illegalCommand ↔ w.toNat = 0 ∨ 5 < w.toNat) ∧
        (w.toNat = 0 ∨ 5 < w.toNat → FaultEntered .illegalCommand ((startCommand w s).withAgenda es) t)

/-- Every command's word is well formed and decodes back to it through the table's numbering, and no other word decodes to
it: on all words, decoding and encoding are inverse to each other. -/
def Obligations.EncodeAndDecodeAreInverse : Prop :=
  ∀ (i : Instr) (w : Word), i.wellFormed = true ∧ decodeTableWord 32 (encode i).toNat = some i ∧
    (decodeWord w = .ok i ↔ w = encode i)

/-! ### Steps of the unit -/

/-- R54, R58: with `BUSY = 1` and a legal word in CMD, the unit's turn is `exec` of the decoded command: when the event is
the unit's, when no event is left, and when the host waits and its polls are used up. -/
def Obligations.StepCompletesTheCommandInCmd : Prop :=
  ∀ (s : State) (i : Instr), s.status.busy = true → decodeWord s.cmd = .ok i →
    (∀ es, s.agenda = .unit :: es → step s = exec i (s.withAgenda es)) ∧
    (s.agenda = [] → step s = exec i s) ∧
    (∀ es, s.agenda = .host (.wait 0) :: es → step s = exec i s)

/-- The model's own (notes/assumptions/11.md): a command word placed by `withFetchWord` is what the next step runs, at the
state its command start (R53) leaves. -/
def Obligations.FetchedWordRunsNext : Prop :=
  ∀ (s : State) (i : Instr), step (s.withFetchWord 32 (encode i).toNat) = exec i (startCommand (encode i) s)

/-- R54: a started command always completes at the unit's turn, whatever word stands in CMD and whatever the inputs are. -/
def Obligations.StartedCommandAlwaysCompletes : Prop :=
  ∀ s : State, s.status.busy = true →
    (s.agenda = [] ∨ (∃ es, s.agenda = .unit :: es) ∨ ∃ es, s.agenda = .host (.wait 0) :: es) →
    ∃ t, step s = .next t ∧ t.status.busy = false ∧ t.status.done = true

/-- R108: the fault checks in their fixed order, the first that fires being taken: IllegalCommand, Capacity,
MalformedMessage for DECRYPT and CHECK, InvalidKey. Each is entered as R110 says. -/
def Obligations.FaultChecksInFixedOrder : Prop :=
  ∀ (s : State) (es : List Event), s.status.busy = true → s.agenda = .unit :: es →
    ((∃ e, decodeWord s.cmd = .error e) →
      ∃ t, step s = .next t ∧ FaultEntered .illegalCommand (s.withAgenda es) t) ∧
    (∀ i, decodeWord s.cmd = .ok i → s.params.keyMax < s.klen.toNat ∨ s.params.inMax < s.ilen.toNat →
      ∃ t, step s = .next t ∧ FaultEntered .capacity (s.withAgenda es) t) ∧
    (∀ i, decodeWord s.cmd = .ok i → s.klen.toNat ≤ s.params.keyMax → s.ilen.toNat ≤ s.params.inMax →
      i = .decrypt ∨ i = .check → s.ilen.toNat < 12 →
      ∃ t, step s = .next t ∧ FaultEntered .malformedMessage (s.withAgenda es) t) ∧
    (∀ i, decodeWord s.cmd = .ok i → s.ilen.toNat ≤ s.params.inMax →
      ¬ ((i = .decrypt ∨ i = .check) ∧ s.ilen.toNat < 12) → s.klen = 0 →
      ∃ t, step s = .next t ∧ FaultEntered .invalidKey (s.withAgenda es) t) ∧
    (∀ i, decodeWord s.cmd = .ok i → 1 ≤ s.klen.toNat → s.klen.toNat ≤ s.params.keyMax →
      s.ilen.toNat ≤ s.params.inMax → ¬ ((i = .decrypt ∨ i = .check) ∧ s.ilen.toNat < 12) →
      ∃ t, step s = .next t ∧ t.status.err = none)

/-- R110: whatever the word in CMD, a completion that records a fault is fault entry and nothing else. -/
def Obligations.FaultEntryIsTheWholeEffect : Prop :=
  ∀ (s t : State) (f : FaultCode), completeCommand s = .next t → t.status.err = some f → FaultEntered f s t

/-- R107: nothing but the checks of R108 makes a command fault. -/
def Obligations.NothingElseFaults : Prop :=
  ∀ (i : Instr) (s t : State), exec i s = .next t → (t.status.err = none ↔ Ready i s)

/-- R14, R18: STATUS as the host reads it. BUSY, DONE and VALID are bits 0, 1 and 2, ERR is bits 7:4 with the code of the
fault, and every other bit is 0. -/
def Obligations.StatusWordLayout : Prop :=
  ∀ st : Status,
    st.toWord.getLsbD 0 = st.busy ∧ st.toWord.getLsbD 1 = st.done ∧ st.toWord.getLsbD 2 = st.valid ∧
    st.toWord.getLsbD 3 = false ∧ (∀ n, 8 ≤ n → st.toWord.getLsbD n = false) ∧
    (st.err = none ↔ st.toWord.extractLsb' 4 4 = 0#4) ∧
    (st.err = some .invalidKey ↔ st.toWord.extractLsb' 4 4 = 1#4) ∧
    (st.err = some .malformedMessage ↔ st.toWord.extractLsb' 4 4 = 2#4) ∧
    (st.err = some .illegalCommand ↔ st.toWord.extractLsb' 4 4 = 3#4) ∧
    (st.err = some .capacity ↔ st.toWord.extractLsb' 4 4 = 4#4)

/-! ### Host accesses -/

/-- R53: a host write of `w` to CMD while `BUSY = 0` stores `w`, sets BUSY, clears DONE, VALID, ERR, POS and KIDX, and changes
nothing else. -/
def Obligations.CmdWriteStartsCommand : Prop :=
  ∀ (s : State) (w : Word) (es : List Event), s.status.busy = false →
    s.agenda = .host (.access (.regWrite 0 w)) :: es →
    ∃ t, step s = .next t ∧ t.cmd = w ∧ t.status.busy = true ∧ t.status.done = false ∧ t.status.valid = false ∧
      t.status.err = none ∧ t.pos = 0 ∧ t.kidx = 0 ∧
      t.olen = s.olen ∧ t.ha = s.ha ∧ t.hb = s.hb ∧ t.hc = s.hc ∧ t.klen = s.klen ∧ t.ilen = s.ilen ∧
      t.opa = s.opa ∧ t.opb = s.opb ∧ (∀ sp i, t.readBuf sp i = s.readBuf sp i) ∧
      t.params = s.params ∧ t.agenda = es ∧ t.seen = s.seen

/-- R42: what `RegWrite(n, v)` does for each of the ten registers, and nothing else changes. -/
def Obligations.RegisterWriteEffects : Prop :=
  ∀ (s : State) (n : Nat) (v : Word) (es : List Event), s.status.busy = false →
    s.agenda = .host (.access (.regWrite n v)) :: es →
    (n = 0 → step s = .next (startCommand v { s with agenda := es })) ∧
    (n = 2 → step s = .next { s with agenda := es, klen := v }) ∧
    (n = 3 → step s = .next { s with agenda := es, ilen := v }) ∧
    (n = 5 → step s = .next { s with agenda := es, opa := v.extractLsb' 0 16 }) ∧
    (n = 6 → step s = .next { s with agenda := es, opb := v.extractLsb' 0 16 }) ∧
    (n = 1 ∨ n = 4 ∨ n = 7 ∨ n = 8 ∨ n = 9 → step s = .next { s with agenda := es })

/-- R41: `RegRead(n)` hands the host the value of register `n` and has no side effect. -/
def Obligations.RegisterReadsHaveNoSideEffect : Prop :=
  ∀ (s : State) (n : Nat) (es : List Event), s.status.busy = false → n ≤ 9 →
    s.agenda = .host (.access (.regRead n)) :: es →
    ∃ v, [s.cmd, s.status.toWord, s.klen, s.ilen, s.olen, s.opa.setWidth 32, s.opb.setWidth 32, s.ha, s.hb, s.hc][n]? = some v ∧
      step s = .next { s with agenda := es, seen := .reg n v :: s.seen }

/-- R22: a write to OPA or OPB followed by a read gives bits 15:0 of the written word, zero-extended. -/
def Obligations.OperandRegistersHoldSixteenBits : Prop :=
  ∀ (s : State) (v : Word),
    (s.writeReg 5 v).bind (fun t => t.readReg 5) = some (v &&& 0x0000FFFF#32) ∧
    (s.writeReg 6 v).bind (fun t => t.readReg 6) = some (v &&& 0x0000FFFF#32)

/-- R44: a host write of one byte changes that byte of KEY or IN and nothing else, and a write to OUT has no effect. -/
def Obligations.BufferWriteChangesOneByte : Prop :=
  ∀ (s : State) (sp : Space) (i : Nat) (v : Byte) (es : List Event), s.status.busy = false →
    i < s.params.capacity sp → s.agenda = .host (.access (.bufWrite sp i v)) :: es →
    ∃ t, step s = .next t ∧
      (sp ≠ .out → t.readBuf sp i = v) ∧
      (∀ sp' j, (sp', j) ≠ (sp, i) → t.readBuf sp' j = s.readBuf sp' j) ∧
      (sp = .out → t.readBuf .out i = s.readBuf .out i) ∧
      t = { s with agenda := es, key := t.key, inp := t.inp }

/-- R43: `BufRead(S, i)` hands the host the byte at index `i` and has no side effect. After a write to the same KEY or IN
index it is the byte written. -/
def Obligations.BufferReadHandsBackTheByte : Prop :=
  ∀ (s : State) (sp : Space) (i : Nat) (es : List Event), s.status.busy = false → i < s.params.capacity sp →
    s.agenda = .host (.access (.bufRead sp i)) :: es →
    step s = .next { s with agenda := es, seen := .byte sp i (s.readBuf sp i) :: s.seen } ∧
    ∀ v, sp ≠ .out → (s.writeBuf sp i v).readBuf sp i = v

/-- R45: an access with a register number above 9 or an index at or above the space's capacity is refused, in an idle unit
under the name of what does not exist. -/
def Obligations.AccessOutsideInterfaceIsRefused : Prop :=
  ∀ (s : State) (es : List Event),
    (∀ n, 9 < n → s.agenda = .host (.access (.regRead n)) :: es →
      (∃ r, step s = .refused r) ∧ (s.status.busy = false → step s = .refused (.noSuchRegister n))) ∧
    (∀ n v, 9 < n → s.agenda = .host (.access (.regWrite n v)) :: es →
      (∃ r, step s = .refused r) ∧ (s.status.busy = false → step s = .refused (.noSuchRegister n))) ∧
    (∀ sp i, s.params.capacity sp ≤ i → s.agenda = .host (.access (.bufRead sp i)) :: es →
      (∃ r, step s = .refused r) ∧ (s.status.busy = false → step s = .refused (.noSuchIndex sp i))) ∧
    (∀ sp i v, s.params.capacity sp ≤ i → s.agenda = .host (.access (.bufWrite sp i v)) :: es →
      (∃ r, step s = .refused r) ∧ (s.status.busy = false → step s = .refused (.noSuchIndex sp i)))

/-- While `BUSY = 1` a STATUS read returns BUSY = 1 with every other field 0 and changes nothing else (R124), and every other
access is refused as `hostAccessWhileBusy`. That refusal is the model's choice (notes/assumptions/7.md, DESIGN CHOICE): R124
calls the effect undefined and lets a model have no such move or refuse it. The invariant excludes BUSY states that no
command start leaves. -/
def Obligations.OnlyStatusReadsWhileBusy : Prop :=
  ∀ (s : State) (a : HostAccess) (es : List Event), Inv s → s.status.busy = true → s.agenda = .host (.access a) :: es →
    (a = .regRead 1 → step s = .next { s with agenda := es, seen := .reg 1 0x00000001#32 :: s.seen }) ∧
    (a ≠ .regRead 1 → step s = .refused .hostAccessWhileBusy)

/-- A step is refused exactly when the next event is a move the host does not have (R45, R61, R124, R132); otherwise the
machine goes on. -/
def Obligations.OnlyForbiddenMovesAreRefused : Prop :=
  ∀ s : State, (AllowedNext s → ∃ t, step s = .next t) ∧ (¬ AllowedNext s → ∃ r, step s = .refused r)

/-! ### Arithmetic and the transform -/

/-- R8: the arithmetic primitives as numbers, and the two byte-order functions are inverse to each other. -/
def Obligations.ArithmeticPrimitives : Prop :=
  (∀ x k : Byte, (add8 x k).toNat = (x.toNat + k.toNat) % 256 ∧ (sub8 x k).toNat = (x.toNat + 256 - k.toNat) % 256) ∧
  (∀ p q : Word, (mul32 p q).toNat = p.toNat * q.toNat % 2 ^ 32) ∧
  (∀ w : Word, (le32 w).map BitVec.toNat =
    [w.toNat % 256, w.toNat / 256 % 256, w.toNat / 65536 % 256, w.toNat / 16777216]) ∧
  (∀ b0 b1 b2 b3 : Byte, (unle32 b0 b1 b2 b3).toNat =
    b0.toNat + 256 * b1.toNat + 65536 * b2.toNat + 16777216 * b3.toNat) ∧
  (∀ w : Word, ∃ b0 b1 b2 b3, le32 w = [b0, b1, b2, b3] ∧ unle32 b0 b1 b2 b3 = w) ∧
  (∀ b0 b1 b2 b3 : Byte, le32 (unle32 b0 b1 b2 b3) = [b0, b1, b2, b3])

/-- R79: the header product of two 16-bit operands is exact, and at most `0xFFFE0001`. -/
def Obligations.HeaderProductIsExact : Prop :=
  ∀ a b : Half, (headerOf a b).c.toNat = a.toNat * b.toNat ∧ (headerOf a b).c.toNat ≤ 0xFFFE0001 ∧
    (headerOf a b).a.toNat = a.toNat ∧ (headerOf a b).b.toNat = b.toNat ∧ checksumOk (headerOf a b) = true

/-- R91: `ParseHeader(BuildHeader(a, b)) = (a, b, a * b)`, and a built header is 12 bytes. -/
def Obligations.ParsedBuiltHeaderIsItself : Prop :=
  ∀ a b : Half, (buildHeader a b).length = 12 ∧ parseHeader (buildHeader a b) = headerOf a b

/-- R74: the two directions of the transform are inverse to each other on every sequence, for every password of at least
one byte. As commands: SHIFT_ENC, the result copied to the input, then SHIFT_DEC with the same password leaves the original
input in OUT, and the same with the two commands swapped. -/
def Obligations.ShiftDirectionsAreInverse : Prop :=
  (∀ (buf key : List Byte), key ≠ [] →
    shift .dec (shift .enc buf key) key = buf ∧ shift .enc (shift .dec buf key) key = buf) ∧
  (∀ (s t u : State) (i j : Instr), (i = .shiftEnc ∧ j = .shiftDec) ∨ (i = .shiftDec ∧ j = .shiftEnc) → Ready i s →
    exec i s = .next t → ResultMovedToInput t u →
    ∃ v, exec j u = .next v ∧ v.status.err = none ∧ v.olen = s.ilen ∧
      ∀ n, n < s.ilen.toNat → v.readBuf .out n = s.readBuf .inp n)

/-- R75: length, initial-part and tail laws, the all-zero password, the negated password, and when two passwords are the
same transform on every sequence of a length. -/
def Obligations.ShiftLaws : Prop :=
  ∀ (dir : Direction) (buf key : List Byte), key ≠ [] →
    (shift dir buf key).length = buf.length ∧
    (∀ n, n ≤ buf.length → (shift dir buf key).take n = shift dir (buf.take n) key) ∧
    (∀ n j, n + j < buf.length → ∀ x k, buf[n + j]? = some x → key[(n + j) % key.length]? = some k →
      ((shift dir buf key).drop n)[j]? = some (dir.apply x k)) ∧
    ((∀ k ∈ key, k = 0) → shift dir buf key = buf) ∧
    shift .dec buf key = shift .enc buf (key.map fun k => sub8 0 k) ∧
    (∀ key2 : List Byte, key2 ≠ [] → ∀ n,
      (∀ buf2 : List Byte, buf2.length = n → shift dir buf2 key = shift dir buf2 key2) ↔
      ∀ i, i < n → key[i % key.length]? = key2[i % key2.length]?)

/-- R76, R29: the byte steps with the hidden counters, run over any source sequence from cleared counters, give the closed
form of R67, and leave POS at the number of bytes, KIDX at that number mod KLEN, and everything else unchanged. -/
def Obligations.DatapathComputesShift : Prop :=
  ∀ (dir : Direction) (src : List Byte) (s : State), 1 ≤ s.klen.toNat →
    transform dir src s.clearCounters =
      (shift dir src s.password, { s with pos := src.length, kidx := src.length % s.klen.toNat })

/-- R29: at every byte `KIDX = POS mod KLEN`; a byte step keeps it, advances POS by one, and changes nothing else. -/
def Obligations.KeyIndexIsPositionModKlen : Prop :=
  ∀ (dir : Direction) (x : Byte) (s : State), 1 ≤ s.klen.toNat → s.kidx = s.pos % s.klen.toNat →
    (byteStep dir x s).1 = dir.apply x (s.readBuf .key (s.pos % s.klen.toNat)) ∧
    (byteStep dir x s).2 = { s with pos := s.pos + 1, kidx := (s.pos + 1) % s.klen.toNat }

/-! ### The commands -/

/-- R70: SHIFT_ENC, its word, its result, the registers it writes, its faults and its frame. -/
def Obligations.ShiftEncCommand : Prop :=
  decodeWord 0x00000001#32 = .ok .shiftEnc ∧ ∀ s : State,
    (Ready .shiftEnc s → ∃ t, exec .shiftEnc s = .next t ∧
      (∀ i, i < s.ilen.toNat → t.readBuf .out i = add8 (s.readBuf .inp i) (s.readBuf .key (i % s.klen.toNat))) ∧
      t.olen = s.ilen ∧ t.ha = 0 ∧ t.hb = 0 ∧ t.hc = 0 ∧ CompletedWith false t ∧ CommandFrame s t) ∧
    (s.params.keyMax < s.klen.toNat ∨ s.params.inMax < s.ilen.toNat →
      ∃ t, exec .shiftEnc s = .next t ∧ FaultEntered .capacity s t) ∧
    (s.klen = 0 → s.ilen.toNat ≤ s.params.inMax → ∃ t, exec .shiftEnc s = .next t ∧ FaultEntered .invalidKey s t)

/-- R71: SHIFT_DEC, its word, its result, the registers it writes, its faults and its frame. -/
def Obligations.ShiftDecCommand : Prop :=
  decodeWord 0x00000002#32 = .ok .shiftDec ∧ ∀ s : State,
    (Ready .shiftDec s → ∃ t, exec .shiftDec s = .next t ∧
      (∀ i, i < s.ilen.toNat → t.readBuf .out i = sub8 (s.readBuf .inp i) (s.readBuf .key (i % s.klen.toNat))) ∧
      t.olen = s.ilen ∧ t.ha = 0 ∧ t.hb = 0 ∧ t.hc = 0 ∧ CompletedWith false t ∧ CommandFrame s t) ∧
    (s.params.keyMax < s.klen.toNat ∨ s.params.inMax < s.ilen.toNat →
      ∃ t, exec .shiftDec s = .next t ∧ FaultEntered .capacity s t) ∧
    (s.klen = 0 → s.ilen.toNat ≤ s.params.inMax → ∃ t, exec .shiftDec s = .next t ∧ FaultEntered .invalidKey s t)

/-- R78: ENCRYPT, its word, its result, the registers it writes, its faults and its frame. `c` is the product of the operands. -/
def Obligations.EncryptCommand : Prop :=
  decodeWord 0x00000003#32 = .ok .encrypt ∧ ∀ s : State,
    (Ready .encrypt s → ∃ t, exec .encrypt s = .next t ∧
      (let a : Word := s.opa.setWidth 32
       let b : Word := s.opb.setWidth 32
       let c : Word := mul32 a b
       (∀ i, i < 12 → ∃ x, (le32 a ++ le32 b ++ le32 c)[i]? = some x ∧
          t.readBuf .out i = add8 x (s.readBuf .key (i % s.klen.toNat))) ∧
       (∀ j, j < s.ilen.toNat →
          t.readBuf .out (12 + j) = add8 (s.readBuf .inp j) (s.readBuf .key ((12 + j) % s.klen.toNat))) ∧
       t.olen.toNat = s.ilen.toNat + 12 ∧ t.ha = a ∧ t.hb = b ∧ t.hc = c) ∧
      CompletedWith false t ∧ CommandFrame s t) ∧
    (s.params.keyMax < s.klen.toNat ∨ s.params.inMax < s.ilen.toNat →
      ∃ t, exec .encrypt s = .next t ∧ FaultEntered .capacity s t) ∧
    (s.klen = 0 → s.ilen.toNat ≤ s.params.inMax → ∃ t, exec .encrypt s = .next t ∧ FaultEntered .invalidKey s t)

/-- R85: DECRYPT, its word, its result, the registers it writes, its faults and its frame. -/
def Obligations.DecryptCommand : Prop :=
  decodeWord 0x00000004#32 = .ok .decrypt ∧ ∀ s : State,
    (Ready .decrypt s → ∃ t, exec .decrypt s = .next t ∧
      (∀ i, 12 ≤ i → i < s.ilen.toNat →
        t.readBuf .out (i - 12) = sub8 (s.readBuf .inp i) (s.readBuf .key (i % s.klen.toNat))) ∧
      t.olen.toNat = s.ilen.toNat - 12 ∧ t.ha = 0 ∧ t.hb = 0 ∧ t.hc = 0 ∧ CompletedWith false t ∧ CommandFrame s t) ∧
    (s.params.keyMax < s.klen.toNat ∨ s.params.inMax < s.ilen.toNat →
      ∃ t, exec .decrypt s = .next t ∧ FaultEntered .capacity s t) ∧
    (s.klen.toNat ≤ s.params.keyMax → s.ilen.toNat < 12 →
      ∃ t, exec .decrypt s = .next t ∧ FaultEntered .malformedMessage s t) ∧
    (s.klen = 0 → 12 ≤ s.ilen.toNat → s.ilen.toNat ≤ s.params.inMax →
      ∃ t, exec .decrypt s = .next t ∧ FaultEntered .invalidKey s t)

/-- R92, R93: CHECK, its word, the header it parses, both outcomes of the checksum, its faults and its frame. -/
def Obligations.CheckCommand : Prop :=
  decodeWord 0x00000005#32 = .ok .check ∧ ∀ s : State,
    (Ready .check s → ∃ t, exec .check s = .next t ∧
      (let h : Nat → Byte := fun i => sub8 (s.readBuf .inp i) (s.readBuf .key (i % s.klen.toNat))
       let A : Word := unle32 (h 0) (h 1) (h 2) (h 3)
       let B : Word := unle32 (h 4) (h 5) (h 6) (h 7)
       let C : Word := unle32 (h 8) (h 9) (h 10) (h 11)
       t.ha = A ∧ t.hb = B ∧ t.hc = C ∧
       (A.toNat * B.toNat % 2 ^ 32 ≠ C.toNat → CompletedWith false t ∧ t.olen = 0) ∧
       (A.toNat * B.toNat % 2 ^ 32 = C.toNat → CompletedWith true t ∧ t.olen.toNat = s.ilen.toNat - 12 ∧
         ∀ i, 12 ≤ i → i < s.ilen.toNat →
           t.readBuf .out (i - 12) = sub8 (s.readBuf .inp i) (s.readBuf .key (i % s.klen.toNat)))) ∧
      CommandFrame s t) ∧
    (s.params.keyMax < s.klen.toNat ∨ s.params.inMax < s.ilen.toNat →
      ∃ t, exec .check s = .next t ∧ FaultEntered .capacity s t) ∧
    (s.klen.toNat ≤ s.params.keyMax → s.ilen.toNat < 12 →
      ∃ t, exec .check s = .next t ∧ FaultEntered .malformedMessage s t) ∧
    (s.klen = 0 → 12 ≤ s.ilen.toNat → s.ilen.toNat ≤ s.params.inMax →
      ∃ t, exec .check s = .next t ∧ FaultEntered .invalidKey s t)

/-- R31: no command, faulting or not, legal or illegal, writes any of its input state. CMD, the host's events and what it has
read stay too. -/
def Obligations.CommandsKeepInputState : Prop :=
  ∀ (s t : State), (∃ i, exec i s = .next t) ∨ completeCommand s = .next t → CommandFrame s t

/-- R32: the output state after a completion is a function of the command word and the input state of R31, and of nothing
else: not of an earlier output state, not of the hidden counters, not of a free value beyond those input bytes. -/
def Obligations.OutputIsAFunctionOfWordAndInput : Prop :=
  ∀ s t s' t' : State, t.cmd = s.cmd → AgreeOnInput s t → completeCommand s = .next s' → completeCommand t = .next t' →
    SameOutput s' t'

/-- The model's reading of R29 and R47 (notes/assumptions/9.md): where POS ends, and KIDX is that mod KLEN. -/
def Obligations.CountersAfterCommand : Prop :=
  ∀ (i : Instr) (s t : State), Ready i s → exec i s = .next t →
    t.kidx = t.pos % s.klen.toNat ∧
    (i = .shiftEnc ∨ i = .shiftDec ∨ i = .decrypt → t.pos = s.ilen.toNat) ∧
    (i = .encrypt → t.pos = s.ilen.toNat + 12) ∧
    (i = .check → t.pos = if t.status.valid then s.ilen.toNat else 12)

/-- The results as the closed forms R70, R71, R78, R85 and R97 give. -/
def Obligations.ResultsAreTheClosedForm : Prop :=
  ∀ (i : Instr) (s t : State), Ready i s → exec i s = .next t →
    (i = .shiftEnc → t.result = shift .enc s.input s.password) ∧
    (i = .shiftDec → t.result = shift .dec s.input s.password) ∧
    (i = .encrypt → t.result = shift .enc (buildHeader s.opa s.opb ++ s.input) s.password) ∧
    (i = .decrypt → t.result = (shift .dec s.input s.password).drop 12) ∧
    (i = .check → t.status.valid = true → t.result = (shift .dec s.input s.password).drop 12)

/-- R82: decoding the first 12 bytes of an ENCRYPT output with the same password gives the operands and their product. -/
def Obligations.EncryptedHeaderDecodesToOperands : Prop :=
  ∀ s t : State, Ready .encrypt s → exec .encrypt s = .next t →
    let h := parseHeader (shift .dec (t.result.take 12) s.password)
    h.a.toNat = s.opa.toNat ∧ h.b.toNat = s.opb.toNat ∧ h.c.toNat = s.opa.toNat * s.opb.toNat

/-- R80: payload bytes of ENCRYPT do not depend on OPA and OPB, and header bytes do not depend on the plaintext. -/
def Obligations.PayloadIgnoresOperands : Prop :=
  ∀ s u s' u' : State, Ready .encrypt s → Ready .encrypt u → u.klen = s.klen →
    (∀ i, i < s.klen.toNat → u.readBuf .key i = s.readBuf .key i) →
    exec .encrypt s = .next s' → exec .encrypt u = .next u' →
    (∀ j, j < s.ilen.toNat → j < u.ilen.toNat → u.readBuf .inp j = s.readBuf .inp j →
      u'.readBuf .out (12 + j) = s'.readBuf .out (12 + j)) ∧
    (u.opa = s.opa → u.opb = s.opb → ∀ i, i < 12 → u'.readBuf .out i = s'.readBuf .out i)

/-- R83: bytes 2, 3, 6 and 7 of every ENCRYPT output are password bytes in clear, and with OPA = OPB = 0 all twelve are. -/
def Obligations.HeaderShowsPasswordBytes : Prop :=
  ∀ s t : State, Ready .encrypt s → exec .encrypt s = .next t →
    (∀ i, i = 2 ∨ i = 3 ∨ i = 6 ∨ i = 7 → t.readBuf .out i = s.readBuf .key (i % s.klen.toNat)) ∧
    (s.opa = 0 → s.opb = 0 → ∀ i, i < 12 → t.readBuf .out i = s.readBuf .key (i % s.klen.toNat))

/-- R88: ENCRYPT, the result copied to the input, then DECRYPT with the same password gives the plaintext back. -/
def Obligations.EncryptThenDecryptRoundTrip : Prop :=
  ∀ s t u : State, Ready .encrypt s → s.ilen.toNat ≤ s.params.inMax - 12 → exec .encrypt s = .next t →
    ResultMovedToInput t u →
    ∃ v, exec .decrypt u = .next v ∧ v.status.err = none ∧ v.olen = s.ilen ∧
      ∀ i, i < s.ilen.toNat → v.readBuf .out i = s.readBuf .inp i

/-- R99: ENCRYPT, the result copied to the input, then CHECK with the same password accepts, recovers the operands and their
product, and gives the plaintext back. -/
def Obligations.EncryptThenCheckAccepts : Prop :=
  ∀ s t u : State, Ready .encrypt s → s.ilen.toNat ≤ s.params.inMax - 12 → exec .encrypt s = .next t →
    ResultMovedToInput t u →
    ∃ v, exec .check u = .next v ∧ v.status.err = none ∧ v.status.valid = true ∧
      v.ha.toNat = s.opa.toNat ∧ v.hb.toNat = s.opb.toNat ∧ v.hc.toNat = s.opa.toNat * s.opb.toNat ∧
      v.olen = s.ilen ∧ ∀ i, i < s.ilen.toNat → v.readBuf .out i = s.readBuf .inp i

/-- R89: where CHECK finds the checksum good it writes what DECRYPT writes; where not, OLEN = 0 while DECRYPT still decodes.
DECRYPT leaves VALID, HA, HB, HC at 0. -/
def Obligations.ValidCheckAgreesWithDecrypt : Prop :=
  ∀ s t u : State, Ready .check s → exec .check s = .next t → exec .decrypt s = .next u →
    (t.status.valid = true → t.olen = u.olen ∧ ∀ i, i < t.olen.toNat → t.readBuf .out i = u.readBuf .out i) ∧
    (t.status.valid = false → t.olen = 0 ∧ u.olen.toNat = s.ilen.toNat - 12) ∧
    u.status.valid = false ∧ u.ha = 0 ∧ u.hb = 0 ∧ u.hc = 0

/-- R101: VALID, HA, HB, HC of CHECK do not depend on input bytes at index 12 or above, and a change of one such byte changes
the one plaintext byte 12 below it and no other. -/
def Obligations.CheckIgnoresPayloadForValidity : Prop :=
  ∀ s u s' u' : State, Ready .check s → u.params = s.params → u.klen = s.klen → u.ilen = s.ilen →
    (∀ i, i < s.klen.toNat → u.readBuf .key i = s.readBuf .key i) →
    (∀ i, i < 12 → u.readBuf .inp i = s.readBuf .inp i) →
    exec .check s = .next s' → exec .check u = .next u' →
    u'.status = s'.status ∧ u'.olen = s'.olen ∧ u'.ha = s'.ha ∧ u'.hb = s'.hb ∧ u'.hc = s'.hc ∧
    (∀ i, 12 ≤ i → i < s.ilen.toNat → s'.status.valid = true →
      (u'.readBuf .out (i - 12) = s'.readBuf .out (i - 12) ↔ u.readBuf .inp i = s.readBuf .inp i))

/-- R98: CHECK of exactly 12 bytes with a password never faults, gives OLEN = 0, and VALID is the checksum of the three
words it parsed. -/
def Obligations.CheckOfBareHeader : Prop :=
  ∀ s : State, s.ilen.toNat = 12 → 1 ≤ s.klen.toNat → s.klen.toNat ≤ s.params.keyMax →
    ∃ t, exec .check s = .next t ∧ t.status.err = none ∧ t.olen = 0 ∧
      (t.status.valid = true ↔ t.ha.toNat * t.hb.toNat % 2 ^ 32 = t.hc.toNat) ∧
      parseHeader (shift .dec s.input s.password) = { a := t.ha, b := t.hb, c := t.hc }

/-- R100: `VALID = 1` does not mean the password is the encoding one. Some ENCRYPT output is accepted by CHECK under another
password of the same length. -/
def Obligations.SomeWrongPasswordIsAccepted : Prop :=
  ∃ s t u v : State, Ready .encrypt s ∧ exec .encrypt s = .next t ∧ u.params = s.params ∧ u.klen = s.klen ∧
    u.ilen = t.olen ∧ (∀ i, i < t.olen.toNat → u.readBuf .inp i = t.readBuf .out i) ∧
    (∃ i, i < s.klen.toNat ∧ u.readBuf .key i ≠ s.readBuf .key i) ∧
    exec .check u = .next v ∧ v.status.valid = true

/-! ### Reset and whole-machine rules -/

/-- R33: after reset every register reads 0, the hidden counters are 0 and no byte of a buffer is defined; a legal command
issued then faults, SHIFT_ENC, SHIFT_DEC and ENCRYPT with InvalidKey, DECRYPT and CHECK with MalformedMessage. -/
def Obligations.ResetStateOfEveryInstance : Prop :=
  ∀ p : Params,
    (∀ n, n ≤ 9 → (State.resetFor p).readReg n = some 0) ∧ (State.resetFor p).status = Status.reset ∧
    (State.resetFor p).pos = 0 ∧ (State.resetFor p).kidx = 0 ∧
    (∀ sp i, ((State.resetFor p).buffer sp).read i = none) ∧
    (∀ i, i = .shiftEnc ∨ i = .shiftDec ∨ i = .encrypt →
      ∃ t, exec i (startCommand (encode i) (State.resetFor p)) = .next t ∧ t.status.err = some .invalidKey) ∧
    (∀ i, i = .decrypt ∨ i = .check →
      ∃ t, exec i (startCommand (encode i) (State.resetFor p)) = .next t ∧ t.status.err = some .malformedMessage)

/-- R119, R120: a reset that arrives at any time, during a command too, leaves the reset state: every register 0, the
counters 0, no buffer byte defined. The instance stays the same. -/
def Obligations.ResetEventAbandonsCommand : Prop :=
  ∀ (s : State) (es : List Event), s.agenda = .reset :: es →
    ∃ t, step s = .next t ∧ (∀ n, n ≤ 9 → t.readReg n = some 0) ∧ t.status = Status.reset ∧ t.pos = 0 ∧ t.kidx = 0 ∧
      (∀ sp i, (t.buffer sp).read i = none) ∧ t.params = s.params ∧ t.agenda = es

/-- The reset state of every instance meets the invariant. -/
def Obligations.ResetMeetsInvariant : Prop := ∀ p : Params, Inv (State.resetFor p)

/-- Every step keeps the invariant: the buffers stay canonical and within their spaces, OUT is defined exactly below OLEN,
`OLEN <= OUT_MAX`, and STATUS, the header registers and the hidden counters stay as R14 to R18, R53 and R110 have them. -/
def Obligations.StepKeepsInvariant : Prop := ∀ s t : State, Inv s → step s = .next t → Inv t

/-- R123: output state is held unchanged while the unit is idle, whatever the host reads or writes, until the next CMD write
or a reset. -/
def Obligations.IdleUnitKeepsResults : Prop :=
  ∀ s t : State, s.status.busy = false → step s = .next t →
    (∀ w es, s.agenda ≠ .host (.access (.regWrite 0 w)) :: es) → (∀ es, s.agenda ≠ .reset :: es) → SameOutput s t

/-- R10, R13, R31, R35: only a host write to the very register or byte, or a reset, changes an input register, CMD or a KEY or
IN byte; no step of the unit does. The capacities never change. -/
def Obligations.OnlyHostAndResetChangeInputState : Prop :=
  ∀ s t : State, step s = .next t → (∀ es, s.agenda ≠ .reset :: es) →
    t.params = s.params ∧
    (t.cmd ≠ s.cmd → ∃ es, s.agenda = .host (.access (.regWrite 0 t.cmd)) :: es) ∧
    (t.klen ≠ s.klen → ∃ es, s.agenda = .host (.access (.regWrite 2 t.klen)) :: es) ∧
    (t.ilen ≠ s.ilen → ∃ es, s.agenda = .host (.access (.regWrite 3 t.ilen)) :: es) ∧
    (t.opa ≠ s.opa → ∃ v es, s.agenda = .host (.access (.regWrite 5 v)) :: es) ∧
    (t.opb ≠ s.opb → ∃ v es, s.agenda = .host (.access (.regWrite 6 v)) :: es) ∧
    (∀ i, t.readBuf .key i ≠ s.readBuf .key i →
      ∃ es, s.agenda = .host (.access (.bufWrite .key i (t.readBuf .key i))) :: es) ∧
    (∀ i, t.readBuf .inp i ≠ s.readBuf .inp i →
      ∃ es, s.agenda = .host (.access (.bufWrite .inp i (t.readBuf .inp i))) :: es)

/-! ### Host scripts -/

/-- R60, R61, R126: the line `run MNEMONIC` at an idle unit, with any number of polls, is the command start and the one
completion; after it the script goes on with `BUSY = 0` and the command's output state and inputs. -/
def Obligations.RunLinePerformsOneCommand : Prop :=
  ∀ (s : State) (i : Instr) (polls : Nat) (es : List Event), s.status.busy = false →
    s.agenda = .host (.run i polls) :: es →
    ∃ t u, exec i (startCommand (encode i) s) = .next t ∧ runSteps (polls + 4) s = .next u ∧
      SameOutput t u ∧ SameInput t u ∧ u.cmd = encode i ∧ u.status.busy = false ∧ u.agenda = es

/-- R61: the line `key` loads the password and KLEN, and the line `msg` the input and ILEN; nothing else changes. -/
def Obligations.KeyAndMsgLinesLoadInputs : Prop :=
  ∀ (s : State) (bytes : List Byte) (es : List Event), s.status.busy = false →
    (bytes.length ≤ s.params.keyMax → s.agenda = .host (.key bytes) :: es →
      ∃ t, runSteps (bytes.length + 2) s = .next t ∧
        (∀ i, ∀ b, bytes[i]? = some b → t.readBuf .key i = b) ∧
        (∀ i, bytes.length ≤ i → t.readBuf .key i = s.readBuf .key i) ∧
        t = { s with agenda := es, key := t.key, klen := BitVec.ofNat 32 bytes.length }) ∧
    (bytes.length ≤ s.params.inMax → s.agenda = .host (.msg bytes) :: es →
      ∃ t, runSteps (bytes.length + 2) s = .next t ∧
        (∀ i, ∀ b, bytes[i]? = some b → t.readBuf .inp i = b) ∧
        (∀ i, bytes.length ≤ i → t.readBuf .inp i = s.readBuf .inp i) ∧
        t = { s with agenda := es, inp := t.inp, ilen := BitVec.ofNat 32 bytes.length })

/-- R61, R128: the line `mov` at an idle unit copies `OUT[0..OLEN)` to IN and OLEN to ILEN when the result fits IN, and keeps
the output state, KLEN, KEY below KLEN, OPA, OPB and the rest of IN. A longer result is refused before the first access
(the model's choice, notes/assumptions/14.md). -/
def Obligations.MovLineMovesResultToInput : Prop :=
  ∀ (s : State) (es : List Event), s.status.busy = false → s.agenda = .host .mov :: es →
    (s.olen.toNat ≤ s.params.inMax →
      ∃ t, runSteps (2 * s.olen.toNat + 3) s = .next t ∧ ResultMovedToInput s t ∧ SameOutput s t ∧
        t.agenda = es ∧ t.opa = s.opa ∧ t.opb = s.opb ∧
        (∀ i, s.olen.toNat ≤ i → t.readBuf .inp i = s.readBuf .inp i)) ∧
    (s.params.inMax < s.olen.toNat → step s = .refused .movTooLong)

/-- R61: the line `out` at an idle unit hands the host OLEN and then `OUT[0..OLEN)` in order (newest first in `seen`) and
changes nothing of the unit. -/
def Obligations.OutLineHandsBackTheResult : Prop :=
  ∀ (s : State) (es : List Event), s.status.busy = false → s.olen.toNat ≤ s.params.outMax →
    s.agenda = .host .out :: es →
    runSteps (s.olen.toNat + 2) s =
      .next { s with
        agenda := es
        seen := ((List.range s.olen.toNat).map fun i => Observation.byte .out i (s.readBuf .out i)).reverse ++
          .reg 4 s.olen :: s.seen }

/-- R62: the document's call `encrypt` as a script, from any idle state and with any number of polls, ends with the encoded
message as the host's result: the header of the operands' low halves and the plaintext, transformed as a whole. -/
def Obligations.EncryptCallReturnsEncodedMessage : Prop :=
  ∀ (s : State) (password plaintext : List Byte) (a b : Word) (polls : Nat), s.status.busy = false →
    1 ≤ password.length → password.length ≤ s.params.keyMax → plaintext.length ≤ s.params.inMax →
    s.agenda = encryptCall password plaintext a b polls →
    ∃ u, runSteps (password.length + 2 * plaintext.length + polls + 25) s = .next u ∧ RunEnded u ∧
      u.verdict = .result (shift .enc (buildHeader (a.setWidth 16) (b.setWidth 16) ++ plaintext) password)

/-- R62, R99: the document's call `check` on an encoded message with its password ends with VALID = 1 and the plaintext as
the host's result. -/
def Obligations.CheckCallReturnsPlaintext : Prop :=
  ∀ (s : State) (password plaintext : List Byte) (a b : Half) (polls : Nat), s.status.busy = false →
    1 ≤ password.length → password.length ≤ s.params.keyMax → plaintext.length + 12 ≤ s.params.inMax →
    s.agenda = checkCall password (shift .enc (buildHeader a b ++ plaintext) password) polls →
    ∃ u, runSteps (password.length + 2 * plaintext.length + polls + 23) s = .next u ∧ RunEnded u ∧
      u.status.valid = true ∧ u.verdict = .result plaintext

/-- R34, R131: where the host has written every input byte of the command, no free value reaches the observable end state. -/
def Obligations.FreeValuesDoNotReachTheEndState : Prop :=
  ∀ (s s' t' : State) (m n : Nat), InputsWritten s → completeCommand s = .next s' →
    completeCommand { s with resetDraw := m, outDraw := n } = .next t' → t'.endState = s'.endState
end

