-- ==== Sys2Proof/Laws/State.lean ====
section
/-! SUPPORT. Every field after every named update of the state, and the fields of the three STATUS values, so that no proof
unfolds a record update. -/

namespace Sys2Proof.Machine

/-! A host read (R41, R43). -/

@[simp] theorem State.observe_cmd (s : State) (o : Observation) : (s.observe o).cmd = s.cmd := rfl
@[simp] theorem State.observe_status (s : State) (o : Observation) : (s.observe o).status = s.status := rfl
@[simp] theorem State.observe_klen (s : State) (o : Observation) : (s.observe o).klen = s.klen := rfl
@[simp] theorem State.observe_ilen (s : State) (o : Observation) : (s.observe o).ilen = s.ilen := rfl
@[simp] theorem State.observe_olen (s : State) (o : Observation) : (s.observe o).olen = s.olen := rfl
@[simp] theorem State.observe_opa (s : State) (o : Observation) : (s.observe o).opa = s.opa := rfl
@[simp] theorem State.observe_opb (s : State) (o : Observation) : (s.observe o).opb = s.opb := rfl
@[simp] theorem State.observe_ha (s : State) (o : Observation) : (s.observe o).ha = s.ha := rfl
@[simp] theorem State.observe_hb (s : State) (o : Observation) : (s.observe o).hb = s.hb := rfl
@[simp] theorem State.observe_hc (s : State) (o : Observation) : (s.observe o).hc = s.hc := rfl
@[simp] theorem State.observe_key (s : State) (o : Observation) : (s.observe o).key = s.key := rfl
@[simp] theorem State.observe_inp (s : State) (o : Observation) : (s.observe o).inp = s.inp := rfl
@[simp] theorem State.observe_out (s : State) (o : Observation) : (s.observe o).out = s.out := rfl
@[simp] theorem State.observe_pos (s : State) (o : Observation) : (s.observe o).pos = s.pos := rfl
@[simp] theorem State.observe_kidx (s : State) (o : Observation) : (s.observe o).kidx = s.kidx := rfl
@[simp] theorem State.observe_params (s : State) (o : Observation) : (s.observe o).params = s.params := rfl
@[simp] theorem State.observe_agenda (s : State) (o : Observation) : (s.observe o).agenda = s.agenda := rfl
@[simp] theorem State.observe_seen (s : State) (o : Observation) : (s.observe o).seen = o :: s.seen := rfl
@[simp] theorem State.observe_resetDraw (s : State) (o : Observation) : (s.observe o).resetDraw = s.resetDraw := rfl
@[simp] theorem State.observe_outDraw (s : State) (o : Observation) : (s.observe o).outDraw = s.outDraw := rfl

/-! The events to come replaced. -/

@[simp] theorem State.withAgenda_cmd (s : State) (es : List Event) : (s.withAgenda es).cmd = s.cmd := rfl
@[simp] theorem State.withAgenda_status (s : State) (es : List Event) : (s.withAgenda es).status = s.status := rfl
@[simp] theorem State.withAgenda_klen (s : State) (es : List Event) : (s.withAgenda es).klen = s.klen := rfl
@[simp] theorem State.withAgenda_ilen (s : State) (es : List Event) : (s.withAgenda es).ilen = s.ilen := rfl
@[simp] theorem State.withAgenda_olen (s : State) (es : List Event) : (s.withAgenda es).olen = s.olen := rfl
@[simp] theorem State.withAgenda_opa (s : State) (es : List Event) : (s.withAgenda es).opa = s.opa := rfl
@[simp] theorem State.withAgenda_opb (s : State) (es : List Event) : (s.withAgenda es).opb = s.opb := rfl
@[simp] theorem State.withAgenda_ha (s : State) (es : List Event) : (s.withAgenda es).ha = s.ha := rfl
@[simp] theorem State.withAgenda_hb (s : State) (es : List Event) : (s.withAgenda es).hb = s.hb := rfl
@[simp] theorem State.withAgenda_hc (s : State) (es : List Event) : (s.withAgenda es).hc = s.hc := rfl
@[simp] theorem State.withAgenda_key (s : State) (es : List Event) : (s.withAgenda es).key = s.key := rfl
@[simp] theorem State.withAgenda_inp (s : State) (es : List Event) : (s.withAgenda es).inp = s.inp := rfl
@[simp] theorem State.withAgenda_out (s : State) (es : List Event) : (s.withAgenda es).out = s.out := rfl
@[simp] theorem State.withAgenda_pos (s : State) (es : List Event) : (s.withAgenda es).pos = s.pos := rfl
@[simp] theorem State.withAgenda_kidx (s : State) (es : List Event) : (s.withAgenda es).kidx = s.kidx := rfl
@[simp] theorem State.withAgenda_params (s : State) (es : List Event) : (s.withAgenda es).params = s.params := rfl
@[simp] theorem State.withAgenda_agenda (s : State) (es : List Event) : (s.withAgenda es).agenda = es := rfl
@[simp] theorem State.withAgenda_seen (s : State) (es : List Event) : (s.withAgenda es).seen = s.seen := rfl
@[simp] theorem State.withAgenda_resetDraw (s : State) (es : List Event) : (s.withAgenda es).resetDraw = s.resetDraw := rfl
@[simp] theorem State.withAgenda_outDraw (s : State) (es : List Event) : (s.withAgenda es).outDraw = s.outDraw := rfl

/-! Command start (R53). -/

@[simp] theorem startCommand_cmd (w : Word) (s : State) : (startCommand w s).cmd = w := rfl
@[simp] theorem startCommand_status (w : Word) (s : State) : (startCommand w s).status = Status.started := rfl
@[simp] theorem startCommand_klen (w : Word) (s : State) : (startCommand w s).klen = s.klen := rfl
@[simp] theorem startCommand_ilen (w : Word) (s : State) : (startCommand w s).ilen = s.ilen := rfl
@[simp] theorem startCommand_olen (w : Word) (s : State) : (startCommand w s).olen = s.olen := rfl
@[simp] theorem startCommand_opa (w : Word) (s : State) : (startCommand w s).opa = s.opa := rfl
@[simp] theorem startCommand_opb (w : Word) (s : State) : (startCommand w s).opb = s.opb := rfl
@[simp] theorem startCommand_ha (w : Word) (s : State) : (startCommand w s).ha = s.ha := rfl
@[simp] theorem startCommand_hb (w : Word) (s : State) : (startCommand w s).hb = s.hb := rfl
@[simp] theorem startCommand_hc (w : Word) (s : State) : (startCommand w s).hc = s.hc := rfl
@[simp] theorem startCommand_key (w : Word) (s : State) : (startCommand w s).key = s.key := rfl
@[simp] theorem startCommand_inp (w : Word) (s : State) : (startCommand w s).inp = s.inp := rfl
@[simp] theorem startCommand_out (w : Word) (s : State) : (startCommand w s).out = s.out := rfl
@[simp] theorem startCommand_pos (w : Word) (s : State) : (startCommand w s).pos = 0 := rfl
@[simp] theorem startCommand_kidx (w : Word) (s : State) : (startCommand w s).kidx = 0 := rfl
@[simp] theorem startCommand_params (w : Word) (s : State) : (startCommand w s).params = s.params := rfl
@[simp] theorem startCommand_agenda (w : Word) (s : State) : (startCommand w s).agenda = s.agenda := rfl
@[simp] theorem startCommand_seen (w : Word) (s : State) : (startCommand w s).seen = s.seen := rfl
@[simp] theorem startCommand_resetDraw (w : Word) (s : State) : (startCommand w s).resetDraw = s.resetDraw := rfl
@[simp] theorem startCommand_outDraw (w : Word) (s : State) : (startCommand w s).outDraw = s.outDraw := rfl

/-! The counters cleared (R29). -/

@[simp] theorem State.clearCounters_cmd (s : State) : s.clearCounters.cmd = s.cmd := rfl
@[simp] theorem State.clearCounters_status (s : State) : s.clearCounters.status = s.status := rfl
@[simp] theorem State.clearCounters_klen (s : State) : s.clearCounters.klen = s.klen := rfl
@[simp] theorem State.clearCounters_ilen (s : State) : s.clearCounters.ilen = s.ilen := rfl
@[simp] theorem State.clearCounters_olen (s : State) : s.clearCounters.olen = s.olen := rfl
@[simp] theorem State.clearCounters_opa (s : State) : s.clearCounters.opa = s.opa := rfl
@[simp] theorem State.clearCounters_opb (s : State) : s.clearCounters.opb = s.opb := rfl
@[simp] theorem State.clearCounters_ha (s : State) : s.clearCounters.ha = s.ha := rfl
@[simp] theorem State.clearCounters_hb (s : State) : s.clearCounters.hb = s.hb := rfl
@[simp] theorem State.clearCounters_hc (s : State) : s.clearCounters.hc = s.hc := rfl
@[simp] theorem State.clearCounters_key (s : State) : s.clearCounters.key = s.key := rfl
@[simp] theorem State.clearCounters_inp (s : State) : s.clearCounters.inp = s.inp := rfl
@[simp] theorem State.clearCounters_out (s : State) : s.clearCounters.out = s.out := rfl
@[simp] theorem State.clearCounters_pos (s : State) : s.clearCounters.pos = 0 := rfl
@[simp] theorem State.clearCounters_kidx (s : State) : s.clearCounters.kidx = 0 := rfl
@[simp] theorem State.clearCounters_params (s : State) : s.clearCounters.params = s.params := rfl
@[simp] theorem State.clearCounters_agenda (s : State) : s.clearCounters.agenda = s.agenda := rfl
@[simp] theorem State.clearCounters_seen (s : State) : s.clearCounters.seen = s.seen := rfl
@[simp] theorem State.clearCounters_resetDraw (s : State) : s.clearCounters.resetDraw = s.resetDraw := rfl
@[simp] theorem State.clearCounters_outDraw (s : State) : s.clearCounters.outDraw = s.outDraw := rfl

/-! The counters one byte on (R29). -/

@[simp] theorem State.advance_cmd (s : State) : s.advance.cmd = s.cmd := rfl
@[simp] theorem State.advance_status (s : State) : s.advance.status = s.status := rfl
@[simp] theorem State.advance_klen (s : State) : s.advance.klen = s.klen := rfl
@[simp] theorem State.advance_ilen (s : State) : s.advance.ilen = s.ilen := rfl
@[simp] theorem State.advance_olen (s : State) : s.advance.olen = s.olen := rfl
@[simp] theorem State.advance_opa (s : State) : s.advance.opa = s.opa := rfl
@[simp] theorem State.advance_opb (s : State) : s.advance.opb = s.opb := rfl
@[simp] theorem State.advance_ha (s : State) : s.advance.ha = s.ha := rfl
@[simp] theorem State.advance_hb (s : State) : s.advance.hb = s.hb := rfl
@[simp] theorem State.advance_hc (s : State) : s.advance.hc = s.hc := rfl
@[simp] theorem State.advance_key (s : State) : s.advance.key = s.key := rfl
@[simp] theorem State.advance_inp (s : State) : s.advance.inp = s.inp := rfl
@[simp] theorem State.advance_out (s : State) : s.advance.out = s.out := rfl
@[simp] theorem State.advance_pos (s : State) : s.advance.pos = s.pos + 1 := rfl
@[simp] theorem State.advance_kidx (s : State) : s.advance.kidx = if s.kidx + 1 = s.klen.toNat then 0 else s.kidx + 1 := rfl
@[simp] theorem State.advance_params (s : State) : s.advance.params = s.params := rfl
@[simp] theorem State.advance_agenda (s : State) : s.advance.agenda = s.agenda := rfl
@[simp] theorem State.advance_seen (s : State) : s.advance.seen = s.seen := rfl
@[simp] theorem State.advance_resetDraw (s : State) : s.advance.resetDraw = s.resetDraw := rfl
@[simp] theorem State.advance_outDraw (s : State) : s.advance.outDraw = s.outDraw := rfl

/-! Completion without a fault (R54). -/

@[simp] theorem deliver_cmd (v : Bool) (h : Header) (r : List Byte) (s : State) : (deliver v h r s).cmd = s.cmd := rfl
@[simp] theorem deliver_status (v : Bool) (h : Header) (r : List Byte) (s : State) : (deliver v h r s).status = Status.completed v := rfl
@[simp] theorem deliver_klen (v : Bool) (h : Header) (r : List Byte) (s : State) : (deliver v h r s).klen = s.klen := rfl
@[simp] theorem deliver_ilen (v : Bool) (h : Header) (r : List Byte) (s : State) : (deliver v h r s).ilen = s.ilen := rfl
@[simp] theorem deliver_olen (v : Bool) (h : Header) (r : List Byte) (s : State) : (deliver v h r s).olen = BitVec.ofNat 32 r.length := rfl
@[simp] theorem deliver_opa (v : Bool) (h : Header) (r : List Byte) (s : State) : (deliver v h r s).opa = s.opa := rfl
@[simp] theorem deliver_opb (v : Bool) (h : Header) (r : List Byte) (s : State) : (deliver v h r s).opb = s.opb := rfl
@[simp] theorem deliver_ha (v : Bool) (h : Header) (r : List Byte) (s : State) : (deliver v h r s).ha = h.a := rfl
@[simp] theorem deliver_hb (v : Bool) (h : Header) (r : List Byte) (s : State) : (deliver v h r s).hb = h.b := rfl
@[simp] theorem deliver_hc (v : Bool) (h : Header) (r : List Byte) (s : State) : (deliver v h r s).hc = h.c := rfl
@[simp] theorem deliver_key (v : Bool) (h : Header) (r : List Byte) (s : State) : (deliver v h r s).key = s.key := rfl
@[simp] theorem deliver_inp (v : Bool) (h : Header) (r : List Byte) (s : State) : (deliver v h r s).inp = s.inp := rfl
@[simp] theorem deliver_out (v : Bool) (h : Header) (r : List Byte) (s : State) : (deliver v h r s).out = indexBytes 0 r := rfl
@[simp] theorem deliver_pos (v : Bool) (h : Header) (r : List Byte) (s : State) : (deliver v h r s).pos = s.pos := rfl
@[simp] theorem deliver_kidx (v : Bool) (h : Header) (r : List Byte) (s : State) : (deliver v h r s).kidx = s.kidx := rfl
@[simp] theorem deliver_params (v : Bool) (h : Header) (r : List Byte) (s : State) : (deliver v h r s).params = s.params := rfl
@[simp] theorem deliver_agenda (v : Bool) (h : Header) (r : List Byte) (s : State) : (deliver v h r s).agenda = s.agenda := rfl
@[simp] theorem deliver_seen (v : Bool) (h : Header) (r : List Byte) (s : State) : (deliver v h r s).seen = s.seen := rfl
@[simp] theorem deliver_resetDraw (v : Bool) (h : Header) (r : List Byte) (s : State) : (deliver v h r s).resetDraw = s.resetDraw := rfl
@[simp] theorem deliver_outDraw (v : Bool) (h : Header) (r : List Byte) (s : State) : (deliver v h r s).outDraw = s.outDraw + 1 := rfl

/-! Fault entry (R110). -/

@[simp] theorem takeFault_cmd (f : FaultCode) (s : State) : (takeFault f s).cmd = s.cmd := rfl
@[simp] theorem takeFault_status (f : FaultCode) (s : State) : (takeFault f s).status = Status.faulted f := rfl
@[simp] theorem takeFault_klen (f : FaultCode) (s : State) : (takeFault f s).klen = s.klen := rfl
@[simp] theorem takeFault_ilen (f : FaultCode) (s : State) : (takeFault f s).ilen = s.ilen := rfl
@[simp] theorem takeFault_olen (f : FaultCode) (s : State) : (takeFault f s).olen = 0 := rfl
@[simp] theorem takeFault_opa (f : FaultCode) (s : State) : (takeFault f s).opa = s.opa := rfl
@[simp] theorem takeFault_opb (f : FaultCode) (s : State) : (takeFault f s).opb = s.opb := rfl
@[simp] theorem takeFault_ha (f : FaultCode) (s : State) : (takeFault f s).ha = 0 := rfl
@[simp] theorem takeFault_hb (f : FaultCode) (s : State) : (takeFault f s).hb = 0 := rfl
@[simp] theorem takeFault_hc (f : FaultCode) (s : State) : (takeFault f s).hc = 0 := rfl
@[simp] theorem takeFault_key (f : FaultCode) (s : State) : (takeFault f s).key = s.key := rfl
@[simp] theorem takeFault_inp (f : FaultCode) (s : State) : (takeFault f s).inp = s.inp := rfl
@[simp] theorem takeFault_out (f : FaultCode) (s : State) : (takeFault f s).out = [] := rfl
@[simp] theorem takeFault_pos (f : FaultCode) (s : State) : (takeFault f s).pos = s.pos := rfl
@[simp] theorem takeFault_kidx (f : FaultCode) (s : State) : (takeFault f s).kidx = s.kidx := rfl
@[simp] theorem takeFault_params (f : FaultCode) (s : State) : (takeFault f s).params = s.params := rfl
@[simp] theorem takeFault_agenda (f : FaultCode) (s : State) : (takeFault f s).agenda = s.agenda := rfl
@[simp] theorem takeFault_seen (f : FaultCode) (s : State) : (takeFault f s).seen = s.seen := rfl
@[simp] theorem takeFault_resetDraw (f : FaultCode) (s : State) : (takeFault f s).resetDraw = s.resetDraw := rfl
@[simp] theorem takeFault_outDraw (f : FaultCode) (s : State) : (takeFault f s).outDraw = s.outDraw + 1 := rfl

/-! Reset (R119). -/

@[simp] theorem takeReset_cmd (s : State) : (takeReset s).cmd = 0 := rfl
@[simp] theorem takeReset_status (s : State) : (takeReset s).status = Status.reset := rfl
@[simp] theorem takeReset_klen (s : State) : (takeReset s).klen = 0 := rfl
@[simp] theorem takeReset_ilen (s : State) : (takeReset s).ilen = 0 := rfl
@[simp] theorem takeReset_olen (s : State) : (takeReset s).olen = 0 := rfl
@[simp] theorem takeReset_opa (s : State) : (takeReset s).opa = 0 := rfl
@[simp] theorem takeReset_opb (s : State) : (takeReset s).opb = 0 := rfl
@[simp] theorem takeReset_ha (s : State) : (takeReset s).ha = 0 := rfl
@[simp] theorem takeReset_hb (s : State) : (takeReset s).hb = 0 := rfl
@[simp] theorem takeReset_hc (s : State) : (takeReset s).hc = 0 := rfl
@[simp] theorem takeReset_key (s : State) : (takeReset s).key = [] := rfl
@[simp] theorem takeReset_inp (s : State) : (takeReset s).inp = [] := rfl
@[simp] theorem takeReset_out (s : State) : (takeReset s).out = [] := rfl
@[simp] theorem takeReset_pos (s : State) : (takeReset s).pos = 0 := rfl
@[simp] theorem takeReset_kidx (s : State) : (takeReset s).kidx = 0 := rfl
@[simp] theorem takeReset_params (s : State) : (takeReset s).params = s.params := rfl
@[simp] theorem takeReset_agenda (s : State) : (takeReset s).agenda = s.agenda := rfl
@[simp] theorem takeReset_seen (s : State) : (takeReset s).seen = s.seen := rfl
@[simp] theorem takeReset_resetDraw (s : State) : (takeReset s).resetDraw = s.resetDraw + 1 := rfl
@[simp] theorem takeReset_outDraw (s : State) : (takeReset s).outDraw = s.outDraw + 1 := rfl

/-! A host write to KEY (R44). -/

@[simp] theorem State.writeBuf_key_cmd (s : State) (i : Nat) (v : Byte) : (s.writeBuf .key i v).cmd = s.cmd := rfl
@[simp] theorem State.writeBuf_key_status (s : State) (i : Nat) (v : Byte) : (s.writeBuf .key i v).status = s.status := rfl
@[simp] theorem State.writeBuf_key_klen (s : State) (i : Nat) (v : Byte) : (s.writeBuf .key i v).klen = s.klen := rfl
@[simp] theorem State.writeBuf_key_ilen (s : State) (i : Nat) (v : Byte) : (s.writeBuf .key i v).ilen = s.ilen := rfl
@[simp] theorem State.writeBuf_key_olen (s : State) (i : Nat) (v : Byte) : (s.writeBuf .key i v).olen = s.olen := rfl
@[simp] theorem State.writeBuf_key_opa (s : State) (i : Nat) (v : Byte) : (s.writeBuf .key i v).opa = s.opa := rfl
@[simp] theorem State.writeBuf_key_opb (s : State) (i : Nat) (v : Byte) : (s.writeBuf .key i v).opb = s.opb := rfl
@[simp] theorem State.writeBuf_key_ha (s : State) (i : Nat) (v : Byte) : (s.writeBuf .key i v).ha = s.ha := rfl
@[simp] theorem State.writeBuf_key_hb (s : State) (i : Nat) (v : Byte) : (s.writeBuf .key i v).hb = s.hb := rfl
@[simp] theorem State.writeBuf_key_hc (s : State) (i : Nat) (v : Byte) : (s.writeBuf .key i v).hc = s.hc := rfl
@[simp] theorem State.writeBuf_key_key (s : State) (i : Nat) (v : Byte) : (s.writeBuf .key i v).key = s.key.write i v := rfl
@[simp] theorem State.writeBuf_key_inp (s : State) (i : Nat) (v : Byte) : (s.writeBuf .key i v).inp = s.inp := rfl
@[simp] theorem State.writeBuf_key_out (s : State) (i : Nat) (v : Byte) : (s.writeBuf .key i v).out = s.out := rfl
@[simp] theorem State.writeBuf_key_pos (s : State) (i : Nat) (v : Byte) : (s.writeBuf .key i v).pos = s.pos := rfl
@[simp] theorem State.writeBuf_key_kidx (s : State) (i : Nat) (v : Byte) : (s.writeBuf .key i v).kidx = s.kidx := rfl
@[simp] theorem State.writeBuf_key_params (s : State) (i : Nat) (v : Byte) : (s.writeBuf .key i v).params = s.params := rfl
@[simp] theorem State.writeBuf_key_agenda (s : State) (i : Nat) (v : Byte) : (s.writeBuf .key i v).agenda = s.agenda := rfl
@[simp] theorem State.writeBuf_key_seen (s : State) (i : Nat) (v : Byte) : (s.writeBuf .key i v).seen = s.seen := rfl
@[simp] theorem State.writeBuf_key_resetDraw (s : State) (i : Nat) (v : Byte) : (s.writeBuf .key i v).resetDraw = s.resetDraw := rfl
@[simp] theorem State.writeBuf_key_outDraw (s : State) (i : Nat) (v : Byte) : (s.writeBuf .key i v).outDraw = s.outDraw := rfl

/-! A host write to INP (R44). -/

@[simp] theorem State.writeBuf_inp_cmd (s : State) (i : Nat) (v : Byte) : (s.writeBuf .inp i v).cmd = s.cmd := rfl
@[simp] theorem State.writeBuf_inp_status (s : State) (i : Nat) (v : Byte) : (s.writeBuf .inp i v).status = s.status := rfl
@[simp] theorem State.writeBuf_inp_klen (s : State) (i : Nat) (v : Byte) : (s.writeBuf .inp i v).klen = s.klen := rfl
@[simp] theorem State.writeBuf_inp_ilen (s : State) (i : Nat) (v : Byte) : (s.writeBuf .inp i v).ilen = s.ilen := rfl
@[simp] theorem State.writeBuf_inp_olen (s : State) (i : Nat) (v : Byte) : (s.writeBuf .inp i v).olen = s.olen := rfl
@[simp] theorem State.writeBuf_inp_opa (s : State) (i : Nat) (v : Byte) : (s.writeBuf .inp i v).opa = s.opa := rfl
@[simp] theorem State.writeBuf_inp_opb (s : State) (i : Nat) (v : Byte) : (s.writeBuf .inp i v).opb = s.opb := rfl
@[simp] theorem State.writeBuf_inp_ha (s : State) (i : Nat) (v : Byte) : (s.writeBuf .inp i v).ha = s.ha := rfl
@[simp] theorem State.writeBuf_inp_hb (s : State) (i : Nat) (v : Byte) : (s.writeBuf .inp i v).hb = s.hb := rfl
@[simp] theorem State.writeBuf_inp_hc (s : State) (i : Nat) (v : Byte) : (s.writeBuf .inp i v).hc = s.hc := rfl
@[simp] theorem State.writeBuf_inp_key (s : State) (i : Nat) (v : Byte) : (s.writeBuf .inp i v).key = s.key := rfl
@[simp] theorem State.writeBuf_inp_inp (s : State) (i : Nat) (v : Byte) : (s.writeBuf .inp i v).inp = s.inp.write i v := rfl
@[simp] theorem State.writeBuf_inp_out (s : State) (i : Nat) (v : Byte) : (s.writeBuf .inp i v).out = s.out := rfl
@[simp] theorem State.writeBuf_inp_pos (s : State) (i : Nat) (v : Byte) : (s.writeBuf .inp i v).pos = s.pos := rfl
@[simp] theorem State.writeBuf_inp_kidx (s : State) (i : Nat) (v : Byte) : (s.writeBuf .inp i v).kidx = s.kidx := rfl
@[simp] theorem State.writeBuf_inp_params (s : State) (i : Nat) (v : Byte) : (s.writeBuf .inp i v).params = s.params := rfl
@[simp] theorem State.writeBuf_inp_agenda (s : State) (i : Nat) (v : Byte) : (s.writeBuf .inp i v).agenda = s.agenda := rfl
@[simp] theorem State.writeBuf_inp_seen (s : State) (i : Nat) (v : Byte) : (s.writeBuf .inp i v).seen = s.seen := rfl
@[simp] theorem State.writeBuf_inp_resetDraw (s : State) (i : Nat) (v : Byte) : (s.writeBuf .inp i v).resetDraw = s.resetDraw := rfl
@[simp] theorem State.writeBuf_inp_outDraw (s : State) (i : Nat) (v : Byte) : (s.writeBuf .inp i v).outDraw = s.outDraw := rfl

@[simp] theorem State.writeBuf_out (s : State) (i : Nat) (v : Byte) : s.writeBuf .out i v = s := rfl

/-! The STATUS values (R33, R53, R54, R110). -/

@[simp] theorem Status.started_busy : Status.started.busy = true := rfl
@[simp] theorem Status.started_done : Status.started.done = false := rfl
@[simp] theorem Status.started_valid : Status.started.valid = false := rfl
@[simp] theorem Status.started_err : Status.started.err = none := rfl
@[simp] theorem Status.reset_busy : Status.reset.busy = false := rfl
@[simp] theorem Status.reset_done : Status.reset.done = false := rfl
@[simp] theorem Status.reset_valid : Status.reset.valid = false := rfl
@[simp] theorem Status.reset_err : Status.reset.err = none := rfl
@[simp] theorem Status.completed_busy (v : Bool) : (Status.completed v).busy = false := rfl
@[simp] theorem Status.completed_done (v : Bool) : (Status.completed v).done = true := rfl
@[simp] theorem Status.completed_valid (v : Bool) : (Status.completed v).valid = v := rfl
@[simp] theorem Status.completed_err (v : Bool) : (Status.completed v).err = none := rfl
@[simp] theorem Status.faulted_busy (f : FaultCode) : (Status.faulted f).busy = false := rfl
@[simp] theorem Status.faulted_done (f : FaultCode) : (Status.faulted f).done = true := rfl
@[simp] theorem Status.faulted_valid (f : FaultCode) : (Status.faulted f).valid = false := rfl
@[simp] theorem Status.faulted_err (f : FaultCode) : (Status.faulted f).err = some f := rfl

/-! Updates that leave the buffers alone read as before. -/

@[simp] theorem State.observe_readBuf (s : State) (o : Observation) (sp : Space) (i : Nat) :
    (s.observe o).readBuf sp i = s.readBuf sp i := by cases sp <;> rfl
@[simp] theorem State.withAgenda_readBuf (s : State) (es : List Event) (sp : Space) (i : Nat) :
    (s.withAgenda es).readBuf sp i = s.readBuf sp i := by cases sp <;> rfl
@[simp] theorem startCommand_readBuf (w : Word) (s : State) (sp : Space) (i : Nat) :
    (startCommand w s).readBuf sp i = s.readBuf sp i := by cases sp <;> rfl
@[simp] theorem State.clearCounters_readBuf (s : State) (sp : Space) (i : Nat) :
    s.clearCounters.readBuf sp i = s.readBuf sp i := by cases sp <;> rfl
@[simp] theorem State.advance_readBuf (s : State) (sp : Space) (i : Nat) :
    s.advance.readBuf sp i = s.readBuf sp i := by cases sp <;> rfl
@[simp] theorem deliver_readBuf_key (v : Bool) (h : Header) (r : List Byte) (s : State) (i : Nat) :
    (deliver v h r s).readBuf .key i = s.readBuf .key i := rfl
@[simp] theorem deliver_readBuf_inp (v : Bool) (h : Header) (r : List Byte) (s : State) (i : Nat) :
    (deliver v h r s).readBuf .inp i = s.readBuf .inp i := rfl
@[simp] theorem takeFault_readBuf_key (f : FaultCode) (s : State) (i : Nat) :
    (takeFault f s).readBuf .key i = s.readBuf .key i := rfl
@[simp] theorem takeFault_readBuf_inp (f : FaultCode) (s : State) (i : Nat) :
    (takeFault f s).readBuf .inp i = s.readBuf .inp i := rfl

/-- Putting back the events that stood there changes nothing. -/
theorem State.withAgenda_self (s : State) (es : List Event) (h : s.agenda = es) : s.withAgenda es = s := by
  subst h; rfl

@[simp] theorem State.withAgenda_withAgenda (s : State) (es fs : List Event) :
    (s.withAgenda es).withAgenda fs = s.withAgenda fs := rfl

end Sys2Proof.Machine
end

