-- ==== Sys2Proof/Laws/Memory.lean ====
section
/-! SUPPORT. One buffer: reading after a write, the canonical form and what a laid-out byte sequence reads as. -/

namespace Sys2Proof.Machine

@[simp] theorem Memory.read_nil (i : Nat) : Memory.read [] i = none := rfl

theorem Memory.read_cons (j : Nat) (v : Byte) (m : Memory) (i : Nat) :
    Memory.read ((j, v) :: m) i = if i = j then some v else m.read i := rfl

/-- Reading back a written byte. -/
@[simp] theorem Memory.read_write_same (m : Memory) (i : Nat) (v : Byte) : (m.write i v).read i = some v := by
  induction m with
  | nil => simp [Memory.write, Memory.read_cons]
  | cons c m ih =>
    obtain ⟨j, u⟩ := c
    unfold Memory.write
    split
    · simp [Memory.read_cons]
    · split
      · simp [Memory.read_cons]
      · simp [Memory.read_cons, *]

/-- A write leaves every other index alone. -/
theorem Memory.read_write_other (m : Memory) (i j : Nat) (v : Byte) (h : j ≠ i) : (m.write i v).read j = m.read j := by
  induction m with
  | nil => simp [Memory.write, Memory.read_cons, h]
  | cons c m ih =>
    obtain ⟨k, u⟩ := c
    unfold Memory.write
    split
    · simp [Memory.read_cons, h]
    · split
      · subst i; simp [Memory.read_cons, h]
      · simp [Memory.read_cons, ih]

theorem Memory.risesFrom_mono (m : Memory) (a b : Nat) (h : m.risesFrom b = true) (hab : a ≤ b) : m.risesFrom a = true := by
  cases m with
  | nil => rfl
  | cons c m =>
    obtain ⟨j, u⟩ := c
    simp only [Memory.risesFrom, Bool.and_eq_true, decide_eq_true_eq] at h ⊢
    exact ⟨by omega, h.2⟩

theorem Memory.write_risesFrom (m : Memory) (lo i : Nat) (v : Byte) (h : m.risesFrom lo = true) (hi : lo ≤ i) :
    (m.write i v).risesFrom lo = true := by
  induction m generalizing lo with
  | nil => simp [Memory.write, Memory.risesFrom, hi]
  | cons c m ih =>
    obtain ⟨j, u⟩ := c
    simp only [Memory.risesFrom, Bool.and_eq_true, decide_eq_true_eq] at h
    unfold Memory.write
    split
    · simp only [Memory.risesFrom, Bool.and_eq_true, decide_eq_true_eq]
      exact ⟨hi, by omega, h.2⟩
    · split
      · simp only [Memory.risesFrom, Bool.and_eq_true, decide_eq_true_eq]
        subst i; exact ⟨hi, h.2⟩
      · simp only [Memory.risesFrom, Bool.and_eq_true, decide_eq_true_eq]
        exact ⟨h.1, ih _ h.2 (by omega)⟩

/-- A write keeps the canonical form. -/
theorem Memory.write_wf (m : Memory) (i : Nat) (v : Byte) (h : m.wf = true) : (m.write i v).wf = true :=
  m.write_risesFrom 0 i v h (Nat.zero_le i)

/-- A write below a bound keeps every index below it. -/
theorem Memory.write_below (m : Memory) (n i : Nat) (v : Byte) (h : m.below n = true) (hi : i < n) :
    (m.write i v).below n = true := by
  unfold Memory.below at *
  induction m with
  | nil => simp [Memory.write, hi]
  | cons c m ih =>
    obtain ⟨j, u⟩ := c
    simp only [List.all_cons, Bool.and_eq_true, decide_eq_true_eq] at h
    unfold Memory.write
    split
    · simp only [List.all_cons, Bool.and_eq_true, decide_eq_true_eq]; exact ⟨hi, h.1, h.2⟩
    · split
      · simp only [List.all_cons, Bool.and_eq_true, decide_eq_true_eq]; exact ⟨hi, h.2⟩
      · simp only [List.all_cons, Bool.and_eq_true, decide_eq_true_eq]; exact ⟨h.1, ih h.2⟩

theorem indexBytes_risesFrom (bs : List Byte) (k : Nat) : (indexBytes k bs).risesFrom k = true := by
  induction bs generalizing k with
  | nil => rfl
  | cons b bs ih => simp [indexBytes, Memory.risesFrom, ih]

/-- A laid-out byte sequence is in canonical form. -/
theorem indexBytes_wf (bs : List Byte) (k : Nat) : (indexBytes k bs).wf = true :=
  Memory.risesFrom_mono _ 0 k (indexBytes_risesFrom bs k) (Nat.zero_le k)

/-- A byte sequence laid out from index `k` reads as its bytes there, and nothing else is defined. -/
theorem indexBytes_read (bs : List Byte) (k i : Nat) : (indexBytes k bs).read i = if k ≤ i then bs[i - k]? else none := by
  induction bs generalizing k with
  | nil => simp [indexBytes]
  | cons b bs ih =>
    simp only [indexBytes, Memory.read_cons, ih]
    rcases Nat.lt_trichotomy i k with h | h | h
    · rw [if_neg (by omega), if_neg (by omega), if_neg (by omega)]
    · subst h; simp
    · rw [if_neg (by omega), if_pos (by omega), if_pos (by omega), show i - k = (i - (k + 1)) + 1 by omega]
      rfl

@[simp] theorem indexBytes_read_zero (bs : List Byte) (i : Nat) : (indexBytes 0 bs).read i = bs[i]? := by
  simp [indexBytes_read]

/-- Reading a KEY or IN byte the host has just written, and every other byte. -/
theorem State.writeBuf_readBuf_same (s : State) (sp : Space) (i : Nat) (v : Byte) (h : sp ≠ .out) :
    (s.writeBuf sp i v).readBuf sp i = v := by
  cases sp <;> simp_all [State.readBuf, State.buffer]

theorem State.writeBuf_readBuf_other (s : State) (sp sp' : Space) (i j : Nat) (v : Byte) (h : (sp', j) ≠ (sp, i)) :
    (s.writeBuf sp i v).readBuf sp' j = s.readBuf sp' j := by
  cases sp <;> cases sp' <;>
    simp_all [State.readBuf, State.buffer, State.undefinedByte, Memory.read_write_other]

/-- Every buffer is in canonical form at reset. -/
theorem resetFor_buffers_wf (p : Params) (sp : Space) : ((State.resetFor p).buffer sp).wf = true := by
  cases sp <;> rfl

/-- A host write of one byte keeps every buffer canonical. -/
theorem State.writeBuf_wf (s : State) (sp sp' : Space) (i : Nat) (v : Byte) (h : ∀ sp', (s.buffer sp').wf = true) :
    ((s.writeBuf sp i v).buffer sp').wf = true := by
  cases sp <;> cases sp' <;> first
    | exact h .key | exact h .inp | exact h .out
    | exact Memory.write_wf _ _ _ (h .key) | exact Memory.write_wf _ _ _ (h .inp)

/-- Delivering a result keeps every buffer canonical. -/
theorem deliver_wf (v : Bool) (hd : Header) (r : List Byte) (s : State) (sp : Space) (h : ∀ sp', (s.buffer sp').wf = true) :
    ((deliver v hd r s).buffer sp).wf = true := by
  cases sp <;> first | exact h .key | exact h .inp | exact indexBytes_wf r 0

/-- Fault entry keeps every buffer canonical. -/
theorem takeFault_wf (f : FaultCode) (s : State) (sp : Space) (h : ∀ sp', (s.buffer sp').wf = true) :
    ((takeFault f s).buffer sp).wf = true := by
  cases sp <;> first | exact h .key | exact h .inp | rfl

/-- A delivered result reads as its bytes. -/
theorem deliver_readBuf_out (v : Bool) (h : Header) (r : List Byte) (s : State) (i : Nat) (hi : i < r.length) :
    (deliver v h r s).readBuf .out i = r[i] := by
  simp [State.readBuf, State.buffer, List.getElem?_eq_getElem hi]

end Sys2Proof.Machine
end

