-- ==== Sys2Proof/Laws/Datapath.lean ====
section
/-! SUPPORT. What the datapath does: one lemma for the byte steps over a sequence, the operand sequences by index, and the
closed form `shift` by index. -/

namespace Sys2Proof.Machine

/-- A counter below `n` moved one on, or back to 0 at `n`, is the next number modulo `n`. -/
theorem wrap_succ (k n : Nat) (h : k < n) : (if k + 1 = n then 0 else k + 1) = (k + 1) % n := by
  split
  · next e => rw [e, Nat.mod_self]
  · rw [Nat.mod_eq_of_lt (by omega)]

/-- The state after the byte steps over `xs` differs in the hidden counters only: POS is `xs.length` on, KIDX that many on
modulo KLEN. -/
theorem transform_state (dir : Direction) (xs : List Byte) (s : State) (h : s.kidx < s.klen.toNat) :
    (transform dir xs s).2 = { s with pos := s.pos + xs.length, kidx := (s.kidx + xs.length) % s.klen.toNat } := by
  induction xs generalizing s with
  | nil => simp [transform, Nat.mod_eq_of_lt h]
  | cons x xs ih =>
    have hw := wrap_succ s.kidx s.klen.toNat h
    have hk : s.advance.kidx < s.advance.klen.toNat := by
      simp only [State.advance_kidx, State.advance_klen, hw]; exact Nat.mod_lt _ (by omega)
    have e : s.kidx + 1 + xs.length = s.kidx + (xs.length + 1) := by omega
    have p : s.pos + 1 + xs.length = s.pos + (xs.length + 1) := by omega
    simp only [transform, byteStep]
    rw [ih _ hk]
    simp only [State.advance, hw, List.length_cons, Nat.mod_add_mod, e, p]

@[simp] theorem transform_length (dir : Direction) (xs : List Byte) (s : State) :
    (transform dir xs s).1.length = xs.length := by
  induction xs generalizing s with
  | nil => rfl
  | cons x xs ih => simp [transform, ih]

/-- Result byte `j` of the byte steps: source byte `j` with the password byte KIDX has come to. -/
theorem transform_getElem? (dir : Direction) (xs : List Byte) (s : State) (h : s.kidx < s.klen.toNat) (j : Nat) :
    (transform dir xs s).1[j]? =
      xs[j]?.map fun x => dir.apply x (s.readBuf .key ((s.kidx + j) % s.klen.toNat)) := by
  induction xs generalizing s j with
  | nil => simp [transform]
  | cons x xs ih =>
    have hw := wrap_succ s.kidx s.klen.toNat h
    cases j with
    | zero => simp [transform, byteStep, Nat.mod_eq_of_lt h]
    | succ j =>
      have hk : s.advance.kidx < s.advance.klen.toNat := by
        simp only [State.advance_kidx, State.advance_klen, hw]; exact Nat.mod_lt _ (by omega)
      simp only [transform, byteStep, List.getElem?_cons_succ, ih _ hk, State.advance_kidx, State.advance_klen, hw,
        State.advance_readBuf, Nat.mod_add_mod]
      rw [show s.kidx + 1 + j = s.kidx + (j + 1) by omega]

/-- The same from cleared counters: the password byte is `KEY[j mod KLEN]` (R67). -/
theorem transform_clear_getElem? (dir : Direction) (xs : List Byte) (s : State) (h : 1 ≤ s.klen.toNat) (j : Nat) :
    (transform dir xs s.clearCounters).1[j]? =
      xs[j]?.map fun x => dir.apply x (s.readBuf .key (j % s.klen.toNat)) := by
  rw [transform_getElem? dir xs s.clearCounters (by simp only [State.clearCounters_kidx, State.clearCounters_klen]; omega) j]; simp

/-- The state after the byte steps from cleared counters. -/
theorem transform_clear_state (dir : Direction) (xs : List Byte) (s : State) (h : 1 ≤ s.klen.toNat) :
    (transform dir xs s.clearCounters).2 = { s with pos := xs.length, kidx := xs.length % s.klen.toNat } := by
  rw [transform_state dir xs s.clearCounters (by simp only [State.clearCounters_kidx, State.clearCounters_klen]; omega)]
  simp [State.clearCounters]

/-- `shift` by index (R67). -/
theorem shift_getElem? (dir : Direction) (buf key : List Byte) (j : Nat) :
    (shift dir buf key)[j]? = buf[j]?.map fun x => dir.apply x (key.getD (j % key.length) 0) := by
  simp [shift]

@[simp] theorem shift_size (dir : Direction) (buf key : List Byte) : (shift dir buf key).length = buf.length := by
  simp [shift]

/-! ### Operand sequences by index -/

@[simp] theorem State.inputSlice_length (s : State) (lo len : Nat) : (s.inputSlice lo len).length = len := by
  simp [State.inputSlice]

@[simp] theorem State.input_length (s : State) : s.input.length = s.ilen.toNat := by simp [State.input]

@[simp] theorem State.password_length (s : State) : s.password.length = s.klen.toNat := by simp [State.password]

@[simp] theorem State.result_length (s : State) : s.result.length = s.olen.toNat := by simp [State.result]

theorem State.inputSlice_getElem? (s : State) (lo len j : Nat) :
    (s.inputSlice lo len)[j]? = if j < len then some (s.readBuf .inp (lo + j)) else none := by
  simp only [State.inputSlice, List.getElem?_map]
  split
  · next h => simp [h]
  · next h => simp; omega

theorem State.input_getElem? (s : State) (j : Nat) :
    s.input[j]? = if j < s.ilen.toNat then some (s.readBuf .inp j) else none := by
  simp [State.input, State.inputSlice_getElem?]

theorem State.password_getElem? (s : State) (j : Nat) :
    s.password[j]? = if j < s.klen.toNat then some (s.readBuf .key j) else none := by
  simp only [State.password, List.getElem?_map]
  split
  · next h => simp [h]
  · next h => simp; omega

theorem State.result_getElem? (s : State) (j : Nat) :
    s.result[j]? = if j < s.olen.toNat then some (s.readBuf .out j) else none := by
  simp only [State.result, List.getElem?_map]
  split
  · next h => simp [h]
  · next h => simp; omega

@[simp] theorem State.inputSlice_getElem (s : State) (lo len j : Nat) (h : j < (s.inputSlice lo len).length) :
    (s.inputSlice lo len)[j] = s.readBuf .inp (lo + j) := by simp [State.inputSlice]

@[simp] theorem State.input_getElem (s : State) (j : Nat) (h : j < s.input.length) : s.input[j] = s.readBuf .inp j := by
  simp [State.input]

@[simp] theorem State.password_getElem (s : State) (j : Nat) (h : j < s.password.length) :
    s.password[j] = s.readBuf .key j := by simp [State.password]

@[simp] theorem State.result_getElem (s : State) (j : Nat) (h : j < s.result.length) :
    s.result[j] = s.readBuf .out j := by simp [State.result]

/-- OLEN after a delivered result, for results that fit a register. -/
theorem deliver_olen_toNat (v : Bool) (h : Header) (r : List Byte) (s : State) (hr : r.length < 2 ^ 32) :
    (deliver v h r s).olen.toNat = r.length := by simp; omega

/-- The result of the last command is the sequence delivered. -/
theorem deliver_result (v : Bool) (h : Header) (r : List Byte) (s : State) (hr : r.length < 2 ^ 32) :
    (deliver v h r s).result = r := by
  apply List.ext_getElem
  · rw [State.result_length, deliver_olen_toNat v h r s hr]
  · intro j _ hj
    rw [State.result_getElem, deliver_readBuf_out v h r s j hj]

@[simp] theorem le32_length (w : Word) : (le32 w).length = 4 := rfl

@[simp] theorem Header.bytes_length (h : Header) : h.bytes.length = 12 := rfl

end Sys2Proof.Machine
end

