-- ==== Sys2Proof/Laws/Commands.lean ====
section
/-! SUPPORT. What a command can do, said once: which fault check fires, and that a completion is either fault entry or one
delivered result. -/

namespace Sys2Proof.Machine

/-- No fault check fires exactly when the command's precondition holds (R108 against the preconditions of R70, R71, R78,
R85, R92). -/
theorem faultCheck_eq_none_iff (i : Instr) (s : State) : faultCheck i s = none ↔ Ready i s := by
  have hk : s.klen = 0 ↔ s.klen.toNat = 0 := ⟨fun e => by rw [e]; rfl, fun e => BitVec.eq_of_toNat_eq e⟩
  unfold faultCheck hdrLen
  constructor
  · intro h
    split at h
    · cases h
    · split at h
      · cases h
      · split at h
        · cases h
        · next h1 h2 h3 => exact ⟨by rw [hk] at h3; omega, by omega, by omega, fun e => by simp [e] at h2; exact h2⟩
  · rintro ⟨a, b, c, d⟩
    rw [if_neg (by omega), if_neg (fun e => by have := d e.1; omega), if_neg (by rw [hk]; omega)]

/-- When Capacity is taken (R106, R108). -/
theorem faultCheck_capacity (i : Instr) (s : State) (h : s.params.keyMax < s.klen.toNat ∨ s.params.inMax < s.ilen.toNat) :
    faultCheck i s = some .capacity := by unfold faultCheck; rw [if_pos h]

/-- When MalformedMessage is taken (R104, R108). -/
theorem faultCheck_malformed (i : Instr) (s : State) (hk : s.klen.toNat ≤ s.params.keyMax)
    (hi : s.ilen.toNat ≤ s.params.inMax) (hh : needsHeader i = true) (h : s.ilen.toNat < 12) :
    faultCheck i s = some .malformedMessage := by
  unfold faultCheck hdrLen; rw [if_neg (by omega), if_pos ⟨hh, h⟩]

/-- When InvalidKey is taken (R103, R108). -/
theorem faultCheck_invalidKey (i : Instr) (s : State) (hi : s.ilen.toNat ≤ s.params.inMax)
    (hh : needsHeader i = true → 12 ≤ s.ilen.toNat) (hk : s.klen = 0) : faultCheck i s = some .invalidKey := by
  have h0 : s.klen.toNat = 0 := by rw [hk]; rfl
  unfold faultCheck hdrLen
  rw [if_neg (by omega), if_neg (fun e => by have := hh e.1; omega), if_pos hk]

/-- Fault entry is what R110 says of it. -/
theorem takeFault_entered (f : FaultCode) (s : State) : FaultEntered f s (takeFault f s) where
  err := rfl
  valid := rfl
  busy := rfl
  done := rfl
  olen := rfl
  ha := rfl
  hb := rfl
  hc := rfl
  out := fun _ => rfl
  frame := ⟨⟨rfl, rfl, rfl, rfl, rfl, fun _ => rfl, fun _ => rfl⟩, rfl, rfl, rfl, rfl⟩
  pos := rfl
  kidx := rfl

/-- A delivered result shows a completion without a fault. -/
theorem deliver_completed (v : Bool) (h : Header) (r : List Byte) (s : State) : CompletedWith v (deliver v h r s) :=
  ⟨rfl, rfl, rfl, rfl⟩

/-- Delivering from a state that differs from `s` in the hidden counters only keeps the frame of a command on `s`. -/
theorem deliver_frame (v : Bool) (h : Header) (r : List Byte) (s : State) (p k : Nat) :
    CommandFrame s (deliver v h r { s with pos := p, kidx := k }) :=
  ⟨⟨rfl, rfl, rfl, rfl, rfl, fun _ => rfl, fun _ => rfl⟩, rfl, rfl, rfl, rfl⟩

/-- The effect of a command whose fault check fires. -/
theorem exec_fault (i : Instr) (s : State) (f : FaultCode) (h : faultCheck i s = some f) : exec i s = .next (takeFault f s) := by
  cases i <;> simp [exec, execShiftEnc, execShiftDec, execEncrypt, execDecrypt, execCheck, completeUnlessFault, h]

/-- The effect of SHIFT_ENC and SHIFT_DEC where no check fires. -/
theorem exec_shiftEnc_ready (s : State) (h : Ready .shiftEnc s) : exec .shiftEnc s = .next (shiftInput .enc s) := by
  simp [exec, execShiftEnc, completeUnlessFault, (faultCheck_eq_none_iff _ s).2 h]

theorem exec_shiftDec_ready (s : State) (h : Ready .shiftDec s) : exec .shiftDec s = .next (shiftInput .dec s) := by
  simp [exec, execShiftDec, completeUnlessFault, (faultCheck_eq_none_iff _ s).2 h]

/-- The effect of ENCRYPT where no check fires. -/
theorem exec_encrypt_ready (s : State) (h : Ready .encrypt s) : exec .encrypt s = .next (encryptInput s) := by
  simp [exec, execEncrypt, completeUnlessFault, (faultCheck_eq_none_iff _ s).2 h]

/-- The effect of DECRYPT where no check fires. -/
theorem exec_decrypt_ready (s : State) (h : Ready .decrypt s) : exec .decrypt s = .next (decryptInput s) := by
  simp [exec, execDecrypt, completeUnlessFault, (faultCheck_eq_none_iff _ s).2 h]

/-- The effect of CHECK where no check fires. -/
theorem exec_check_ready (s : State) (h : Ready .check s) : exec .check s = .next (checkInput s) := by
  simp [exec, execCheck, completeUnlessFault, (faultCheck_eq_none_iff _ s).2 h]

/-! ### The five own effects as one delivered result each -/

/-- The raw transform delivers the transformed input. -/
theorem shiftInput_eq (dir : Direction) (s : State) (h : 1 ≤ s.klen.toNat) :
    shiftInput dir s = deliver false Header.zero (transform dir s.input s.clearCounters).1
      { s with pos := s.ilen.toNat, kidx := s.ilen.toNat % s.klen.toNat } := by
  simp only [shiftInput, transform_clear_state dir s.input s h, State.input_length]

/-- ENCRYPT delivers the transformed pre-cipher buffer and the built header. -/
theorem encryptInput_eq (s : State) (h : 1 ≤ s.klen.toNat) :
    encryptInput s = deliver false s.builtHeader (transform .enc s.preCipher s.clearCounters).1
      { s with pos := s.ilen.toNat + 12, kidx := (s.ilen.toNat + 12) % s.klen.toNat } := by
  have hl : s.preCipher.length = s.ilen.toNat + 12 := by simp [State.preCipher]; omega
  simp only [encryptInput, transform_clear_state .enc s.preCipher s h, hl]

/-- DECRYPT delivers the transformed input less its first 12 bytes. -/
theorem decryptInput_eq (s : State) (h : 1 ≤ s.klen.toNat) :
    decryptInput s = deliver false Header.zero ((transform .dec s.input s.clearCounters).1.drop hdrLen)
      { s with pos := s.ilen.toNat, kidx := s.ilen.toNat % s.klen.toNat } := by
  simp only [decryptInput, transform_clear_state .dec s.input s h, State.input_length]

/-- The header words CHECK parses. -/
def checkedHeader (s : State) : Header := parseHeader (transform .dec (s.inputSlice 0 hdrLen) s.clearCounters).1

/-- The state CHECK's payload bytes run in: the counters after the 12 header bytes. -/
def afterHeader (s : State) : State := { s with pos := 12, kidx := 12 % s.klen.toNat }

/-- CHECK where the checksum fails: the parsed header, no result (R92). -/
theorem checkInput_bad (s : State) (h : 1 ≤ s.klen.toNat) (hc : checksumOk (checkedHeader s) = false) :
    checkInput s = deliver false (checkedHeader s) [] (afterHeader s) := by
  have hs : (transform .dec (s.inputSlice 0 hdrLen) s.clearCounters).2 = afterHeader s := by
    rw [transform_clear_state .dec _ s h]; simp [afterHeader, hdrLen]
  simp only [checkInput, hs]
  change (if checksumOk (checkedHeader s) = true then _ else deliver false (checkedHeader s) [] (afterHeader s)) = _
  rw [if_neg (by simp [hc])]

/-- CHECK where the checksum holds: the parsed header, the payload (R92). -/
theorem checkInput_good (s : State) (h : 1 ≤ s.klen.toNat) (hl : 12 ≤ s.ilen.toNat)
    (hc : checksumOk (checkedHeader s) = true) :
    checkInput s = deliver true (checkedHeader s)
      (transform .dec (s.inputSlice hdrLen (s.ilen.toNat - hdrLen)) (afterHeader s)).1
      { s with pos := s.ilen.toNat, kidx := s.ilen.toNat % s.klen.toNat } := by
  have hs : (transform .dec (s.inputSlice 0 hdrLen) s.clearCounters).2 = afterHeader s := by
    rw [transform_clear_state .dec _ s h]; simp [afterHeader, hdrLen]
  have hk : (afterHeader s).kidx < (afterHeader s).klen.toNat := Nat.mod_lt _ h
  have h2 : (transform .dec (s.inputSlice hdrLen (s.ilen.toNat - hdrLen)) (afterHeader s)).2 =
      { s with pos := s.ilen.toNat, kidx := s.ilen.toNat % s.klen.toNat } := by
    have e : 12 + (s.ilen.toNat - 12) = s.ilen.toNat := by omega
    rw [transform_state .dec _ _ hk]
    simp only [afterHeader, State.inputSlice_length, hdrLen, Nat.mod_add_mod, e]
  simp only [checkInput, hs]
  change (if checksumOk (checkedHeader s) = true then
    deliver true (checkedHeader s) (transform .dec (s.inputSlice hdrLen (s.ilen.toNat - hdrLen)) (afterHeader s)).1
      (transform .dec (s.inputSlice hdrLen (s.ilen.toNat - hdrLen)) (afterHeader s)).2 else _) = _
  rw [if_pos hc, h2]

/-- Everything a command can do: fault entry by the check that fires, or one delivered result, of at most ILEN + 12 bytes,
from a state that differs in the hidden counters only; a VALID result has a header whose checksum holds. -/
theorem exec_cases (i : Instr) (s : State) :
    (∃ f, faultCheck i s = some f ∧ exec i s = .next (takeFault f s)) ∨
    (Ready i s ∧ ∃ v h r p k, exec i s = .next (deliver v h r { s with pos := p, kidx := k }) ∧
      r.length ≤ s.ilen.toNat + 12 ∧ (v = true → mul32 h.a h.b = h.c)) := by
  cases hf : faultCheck i s with
  | some f => exact .inl ⟨f, rfl, exec_fault i s f hf⟩
  | none =>
    have hr := (faultCheck_eq_none_iff i s).1 hf
    refine .inr ⟨hr, ?_⟩
    have hk := hr.klen_pos
    cases i with
    | shiftEnc => exact ⟨_, _, _, _, _, by rw [exec_shiftEnc_ready s hr, shiftInput_eq _ s hk], by simp, by simp⟩
    | shiftDec => exact ⟨_, _, _, _, _, by rw [exec_shiftDec_ready s hr, shiftInput_eq _ s hk], by simp, by simp⟩
    | encrypt =>
      exact ⟨_, _, _, _, _, by rw [exec_encrypt_ready s hr, encryptInput_eq s hk],
        by simp [State.preCipher]; omega, by simp⟩
    | decrypt => exact ⟨_, _, _, _, _, by rw [exec_decrypt_ready s hr, decryptInput_eq s hk], by simp; omega, by simp⟩
    | check =>
      have hl := hr.has_header rfl
      cases hc : checksumOk (checkedHeader s) with
      | false =>
        exact ⟨_, _, _, 12, 12 % s.klen.toNat, by rw [exec_check_ready s hr, checkInput_bad s hk hc]; rfl, by simp, by simp⟩
      | true =>
        exact ⟨_, _, _, _, _, by rw [exec_check_ready s hr, checkInput_good s hk hl hc], by simp [hdrLen]; omega,
          fun _ => by simpa [checksumOk] using hc⟩

end Sys2Proof.Machine
end

