-- ==== Sys2Proof/Laws/PerInstr.lean ====
section
/-! SUPPORT. Statements about each command as syntax, one lemma a constructor. -/

namespace Sys2Proof

/-- The fields of a command's word (R55, R56): RSV is zero, OP is the command's code and lies in 1 to 5, and the word is the
opcode table's `match`, which its `mask` leaves whole. -/
def Laws.TableRow.Statement (i : Instr) : Prop :=
  rsvField (encode i) = 0#24 ∧ opField (encode i) = opcode i ∧ 1 ≤ (opcode i).toNat ∧ (opcode i).toNat ≤ 5 ∧
    encode i = tableMatch i ∧ encode i &&& tableMask = tableMatch i

theorem Laws.TableRow.shiftEnc : Laws.TableRow.Statement .shiftEnc := by unfold Laws.TableRow.Statement; decide
theorem Laws.TableRow.shiftDec : Laws.TableRow.Statement .shiftDec := by unfold Laws.TableRow.Statement; decide
theorem Laws.TableRow.encrypt : Laws.TableRow.Statement .encrypt := by unfold Laws.TableRow.Statement; decide
theorem Laws.TableRow.decrypt : Laws.TableRow.Statement .decrypt := by unfold Laws.TableRow.Statement; decide
theorem Laws.TableRow.check : Laws.TableRow.Statement .check := by unfold Laws.TableRow.Statement; decide

end Sys2Proof
end

