-- ==== Sys2Proof/Laws/Step.lean ====
section
/-! SUPPORT. What one step can do, said once. -/

namespace Sys2Proof.Machine

/-- The completion step always answers a next state: fault entry, or one delivered result of the decoded command. -/
theorem completeCommand_cases (s : State) :
    ∃ t, completeCommand s = .next t ∧
      ((∃ f, t = takeFault f s) ∨
        ∃ i v h r p k, Ready i s ∧ t = deliver v h r { s with pos := p, kidx := k } ∧
          r.length ≤ s.ilen.toNat + 12 ∧ (v = true → mul32 h.a h.b = h.c)) := by
  unfold completeCommand
  split
  · next i _ =>
    rcases exec_cases i s with ⟨f, _, e⟩ | ⟨hr, v, h, r, p, k, e, hl, hv⟩
    · exact ⟨_, e, .inl ⟨f, rfl⟩⟩
    · exact ⟨_, e, .inr ⟨i, v, h, r, p, k, hr, rfl, hl, hv⟩⟩
  · exact ⟨_, rfl, .inl ⟨_, rfl⟩⟩

/-- Where the unit takes its turn while `BUSY = 1`, the step is the completion step. -/
theorem step_unit_busy (s : State) (es : List Event) (hb : s.status.busy = true) (ha : s.agenda = .unit :: es) :
    step s = completeCommand (s.withAgenda es) := by
  simp [step, nextEvent, unitTurn, ha, hb]

/-- With no event left a started command completes. -/
theorem step_nil_busy (s : State) (hb : s.status.busy = true) (ha : s.agenda = []) : step s = completeCommand s := by
  simp [step, nextEvent, unitTurn, ha, hb]

/-- While the host waits and its polls are used up, the unit completes and the wait stays. -/
theorem step_wait_busy (s : State) (es : List Event) (hb : s.status.busy = true) (ha : s.agenda = .host (.wait 0) :: es) :
    step s = completeCommand s := by
  simp only [step, nextEvent, ha, hb, if_true, busyLine, State.withAgenda_withAgenda, State.withAgenda_agenda]
  rw [State.withAgenda_self s _ ha]

/-- A host line at an idle unit. -/
theorem step_host_idle (s : State) (l : ScriptLine) (es : List Event) (hb : s.status.busy = false)
    (ha : s.agenda = .host l :: es) : step s = idleLine l (s.withAgenda es) := by
  simp [step, nextEvent, ha, hb]

/-- A host line while `BUSY = 1`. -/
theorem step_host_busy (s : State) (l : ScriptLine) (es : List Event) (hb : s.status.busy = true)
    (ha : s.agenda = .host l :: es) : step s = busyLine l (s.withAgenda es) := by
  simp [step, nextEvent, ha, hb]

/-- A reset event. -/
theorem step_reset (s : State) (es : List Event) (ha : s.agenda = .reset :: es) :
    step s = .next (takeReset (s.withAgenda es)) := by
  simp [step, nextEvent, ha]

/-- Everything a step that goes on can do, `es` being the events it leaves. -/
theorem step_cases (s t : State) (h : step s = .next t) :
    (∃ es, t = s.withAgenda es) ∨
    (∃ es o, t = (s.withAgenda es).observe o) ∨
    (∃ es, s.agenda = .reset :: es ∧ t = takeReset (s.withAgenda es)) ∨
    (∃ es, s.status.busy = true ∧ completeCommand (s.withAgenda es) = .next t) ∨
    (∃ es n v, s.status.busy = false ∧ s.agenda = .host (.access (.regWrite n v)) :: es ∧
      (s.withAgenda es).writeReg n v = some t) ∨
    (∃ es sp i v, s.status.busy = false ∧ s.agenda = .host (.access (.bufWrite sp i v)) :: es ∧
      i < s.params.capacity sp ∧ t = (s.withAgenda es).writeBuf sp i v) := by
  cases ha : s.agenda with
  | nil =>
    cases hb : s.status.busy with
    | true =>
      refine .inr (.inr (.inr (.inl ⟨[], rfl, ?_⟩)))
      rw [State.withAgenda_self s _ ha, ← step_nil_busy s hb ha]; exact h
    | false =>
      have hs : step s = .next s := by simp [step, nextEvent, unitTurn, ha, hb]
      rw [hs] at h; cases h
      exact .inl ⟨[], (State.withAgenda_self s _ ha).symm⟩
  | cons e es =>
    cases e with
    | unit =>
      cases hb : s.status.busy with
      | true => exact .inr (.inr (.inr (.inl ⟨es, rfl, step_unit_busy s es hb ha ▸ h⟩)))
      | false =>
        have hs : step s = .next (s.withAgenda es) := by simp [step, nextEvent, unitTurn, ha, hb]
        rw [hs] at h; cases h
        exact .inl ⟨es, rfl⟩
    | reset => rw [step_reset s es ha] at h; cases h; exact .inr (.inr (.inl ⟨es, rfl, rfl⟩))
    | host l =>
      cases hb : s.status.busy with
      | true =>
        rw [step_host_busy s l es hb ha] at h
        unfold busyLine at h
        split at h
        all_goals try (cases h; done)
        · cases h; exact .inr (.inl ⟨es, _, rfl⟩)
        · next k => cases h; exact .inr (.inl ⟨.host (.wait k) :: es, _, rfl⟩)
        · exact .inr (.inr (.inr (.inl ⟨_, rfl, h⟩)))
      | false =>
        rw [step_host_idle s l es hb ha] at h
        cases l with
        | access a =>
          cases a with
          | regRead n =>
            simp only [idleLine, hostAccess] at h
            split at h
            · cases h; exact .inr (.inl ⟨es, _, rfl⟩)
            · cases h
          | regWrite n v =>
            simp only [idleLine, hostAccess] at h
            split at h
            · next w => cases h; exact .inr (.inr (.inr (.inr (.inl ⟨es, n, v, rfl, rfl, w⟩))))
            · cases h
          | bufRead sp i =>
            simp only [idleLine, hostAccess] at h
            split at h
            · cases h; exact .inr (.inl ⟨es, _, rfl⟩)
            · cases h
          | bufWrite sp i v =>
            simp only [idleLine, hostAccess] at h
            split at h
            · next w => cases h; exact .inr (.inr (.inr (.inr (.inr ⟨es, sp, i, v, rfl, rfl, w, rfl⟩))))
            · cases h
        | wait k => cases h; exact .inr (.inl ⟨es, _, rfl⟩)
        | mov =>
          simp only [idleLine] at h
          split at h
          · cases h; exact .inl ⟨_, rfl⟩
          · cases h
        | key bs => cases h; exact .inl ⟨_, rfl⟩
        | msg bs => cases h; exact .inl ⟨_, rfl⟩
        | ops a b => cases h; exact .inl ⟨_, rfl⟩
        | run i k => cases h; exact .inl ⟨_, rfl⟩
        | out => cases h; exact .inl ⟨_, rfl⟩

/-- A run of no step. -/
@[simp] theorem runSteps_zero (s : State) : runSteps 0 s = .next s := rfl

/-- A run whose first step goes on is the run of the rest from there. -/
theorem runSteps_succ (k : Nat) (s t : State) (h : step s = .next t) : runSteps (k + 1) s = runSteps k t := by
  simp only [runSteps, h]

/-- A run that goes on can be cut in two. -/
theorem runSteps_add (a b : Nat) (s t : State) (h : runSteps a s = .next t) : runSteps (a + b) s = runSteps b t := by
  induction a generalizing s with
  | zero => cases h; rw [Nat.zero_add]
  | succ a ih =>
    rw [Nat.succ_add]
    cases hs : step s with
    | next u => rw [runSteps_succ _ _ _ hs] at h ⊢; exact ih u h
    | fault r => cases r
    | refused r => simp only [runSteps, hs] at h; cases h

/-- `runSteps` is the host's run of the machine. -/
theorem core_run_eq (k : Nat) (s : State) : Sys2Proof.core.run k s = runSteps k s := by
  induction k generalizing s with
  | zero => rfl
  | succ k ih =>
    cases hs : step s with
    | next u =>
      have hc : Sys2Proof.core.step s = .next u := hs
      simp only [Host.Core.run, hc, runSteps, hs]; exact ih u
    | fault r => cases r
    | refused r =>
      have hc : Sys2Proof.core.step s = .refused r := hs
      simp only [Host.Core.run, hc, runSteps, hs]; rfl

/-- Everything a host register write can do. -/
theorem State.writeReg_cases (s t : State) (n : Nat) (v : Word) (h : s.writeReg n v = some t) :
    (n = 0 ∧ t = startCommand v s) ∨ (n = 2 ∧ t = { s with klen := v }) ∨ (n = 3 ∧ t = { s with ilen := v }) ∨
      (n = 5 ∧ t = { s with opa := v.setWidth 16 }) ∨ (n = 6 ∧ t = { s with opb := v.setWidth 16 }) ∨
      ((n = 1 ∨ n = 4 ∨ n = 7 ∨ n = 8 ∨ n = 9) ∧ t = s) := by
  unfold State.writeReg at h
  split at h <;> cases h <;> simp

theorem State.readReg_above (s : State) (n : Nat) (h : 9 < n) : s.readReg n = none := by
  obtain ⟨k, rfl⟩ : ∃ k, n = k + 10 := ⟨n - 10, by omega⟩
  rfl

theorem State.writeReg_above (s : State) (n : Nat) (v : Word) (h : 9 < n) : s.writeReg n v = none := by
  obtain ⟨k, rfl⟩ : ∃ k, n = k + 10 := ⟨n - 10, by omega⟩
  rfl

/-- A register exists exactly up to number 9 (R12, R24). -/
theorem State.readReg_isSome (s : State) (n : Nat) : (s.readReg n).isSome = true ↔ n ≤ 9 := by
  by_cases h : n ≤ 9
  · interval_cases n <;> simp [State.readReg]
  · simp [s.readReg_above n (by omega), h]

/-- A register write exists exactly up to number 9 (R24, R42). -/
theorem State.writeReg_isSome (s : State) (n : Nat) (v : Word) : (s.writeReg n v).isSome = true ↔ n ≤ 9 := by
  by_cases h : n ≤ 9
  · interval_cases n <;> simp [State.writeReg]
  · simp [s.writeReg_above n v (by omega), h]

end Sys2Proof.Machine
end

