-- ==== Sys2Proof/Tests/Slice0.lean ====
section
/-! SUPPORT. The model's own tests. Every expected value is the spec's: the worked example and the vectors of
`95_test_vectors.md`, cited by their id, or a word written out from R55 and R56. -/

namespace Sys2Proof.Tests

open Sys2Proof Sys2Proof.Machine

/-! ### Helpers -/

/-- The next state, where there is one. -/
def next? : Host.Outcome State Fault Refusal → Option State
  | .next s => some s
  | _ => none

/-- The refusal, where there is one. -/
def refusal? : Host.Outcome State Fault Refusal → Option Refusal
  | .refused r => some r
  | _ => none

/-- A password and an input loaded at reset. -/
def loaded (key inp : List Byte) : State :=
  { State.reset with
    key := indexBytes 0 key
    klen := BitVec.ofNat 32 key.length
    inp := indexBytes 0 inp
    ilen := BitVec.ofNat 32 inp.length }

/-- What the host reads after a command: STATUS, OLEN, HA, HB, HC and `OUT[0..OLEN)`. -/
structure Outputs where
  status : Word
  olen : Word
  ha : Word
  hb : Word
  hc : Word
  out : List Byte
deriving DecidableEq, Repr

/-- The outputs of the next state, where there is one. -/
def outputs (o : Host.Outcome State Fault Refusal) : Option Outputs :=
  (next? o).map fun t => ⟨t.status.toWord, t.olen, t.ha, t.hb, t.hc, t.result⟩

/-- X1's message and X7's message. -/
def x1Message : List Byte := [0x4D, 0x4B, 0x4B, 0x4B, 0x4E, 0x4B, 0x4B, 0x4B, 0x51, 0x4B, 0x4B, 0x4B, 0x93, 0x94]
def x7Message : List Byte :=
  [0x60, 0x61, 0x63, 0x64, 0x64, 0x60, 0x62, 0x63, 0x65, 0x65, 0x5F, 0x61, 0xCB, 0xC9, 0xD1, 0xCD, 0xD1]

/-! ### Decoding: command words bit by bit from R55 (RSV in bits 31:8, OP in bits 7:0) and R56 -/

theorem test_decode_shift_enc : decodeTableWord 32 0b00000000000000000000000000000001 = some .shiftEnc := by decide
theorem test_decode_shift_dec : decodeTableWord 32 0b00000000000000000000000000000010 = some .shiftDec := by decide
theorem test_decode_encrypt : decodeTableWord 32 0b00000000000000000000000000000011 = some .encrypt := by decide
theorem test_decode_decrypt : decodeTableWord 32 0b00000000000000000000000000000100 = some .decrypt := by decide
theorem test_decode_check : decodeTableWord 32 0b00000000000000000000000000000101 = some .check := by decide
/-- X20a to X20c: OP 0, 6 and 0xFF. -/
theorem test_decode_unassigned :
    [0#32, 6#32, 0xFF#32].map (fun w => (decodeWord w).toOption) = [none, none, none] := by decide
/-- X20d to X20f: RSV not zero. -/
theorem test_decode_reserved :
    [0x103#32, 0x80000001#32, 0xFFFFFFFF#32].map (fun w => (decodeWord w).toOption) = [none, none, none] := by decide

/-! ### Well-formedness: an ill-formed term for each check -/

theorem test_word_reserved_refused : wordWellFormed 0x103#32 = false := by decide
theorem test_word_op_zero_refused : wordWellFormed 0#32 = false := by decide
theorem test_word_op_six_refused : wordWellFormed 6#32 = false := by decide
theorem test_commands_well_formed : [Instr.shiftEnc, .shiftDec, .encrypt, .decrypt, .check].all Instr.wellFormed = true := by decide
theorem test_register_ten_refused :
    (HostAccess.regRead 10).wellFormed Config.suggested = false ∧ (HostAccess.regWrite 10 0).wellFormed Config.suggested = false := by
  decide
theorem test_index_at_capacity_refused :
    (HostAccess.bufRead .out 4108).wellFormed Config.suggested = false ∧
      (HostAccess.bufWrite .key 256 0).wellFormed Config.suggested = false := by decide

/-! ### Commands -/

/-- X3. -/
theorem test_shift_enc_wraps :
    outputs (exec .shiftEnc (loaded [0x41, 0x42] [0x00, 0xFF, 0x80, 0x7F, 0xC0])) =
      some ⟨0x02, 5, 0, 0, 0, [0x41, 0x41, 0xC1, 0xC1, 0x01]⟩ := by decide
/-- X6b: a three-byte cycle. -/
theorem test_shift_enc_cycles :
    outputs (exec .shiftEnc (loaded [0x10, 0x0F, 0xFF] [0xF0, 0xF1, 0xF2, 0xF3, 0xF4, 0xF5, 0xF6])) =
      some ⟨0x02, 7, 0, 0, 0, [0x00, 0x00, 0xF1, 0x03, 0x03, 0xF4, 0x06]⟩ := by decide
/-- X4. -/
theorem test_shift_dec_borrows :
    outputs (exec .shiftDec (loaded [0x41, 0x42] [0x41, 0x41, 0xC1, 0xC1, 0x01])) =
      some ⟨0x02, 5, 0, 0, 0, [0x00, 0xFF, 0x80, 0x7F, 0xC0]⟩ := by decide
/-- X6h: the empty password. -/
theorem test_shift_dec_empty_password :
    outputs (exec .shiftDec (loaded [] [0x01, 0x02])) = some ⟨0x12, 0, 0, 0, 0, []⟩ := by decide
/-- X1, the source's worked example. -/
theorem test_encrypt_worked_example :
    outputs (exec .encrypt { loaded [0x4B] [0x48, 0x49] with opa := 2, opb := 3 }) = some ⟨0x02, 14, 2, 3, 6, x1Message⟩ := by
  decide
/-- X7: the largest product, and a password length that does not divide 12. -/
theorem test_encrypt_largest_product :
    outputs (exec .encrypt { loaded [0x61, 0x62, 0x63, 0x64, 0x65] [0x68, 0x65, 0x6C, 0x6C, 0x6F] with opa := 0xFFFF, opb := 0xFFFF }) =
      some ⟨0x02, 17, 0xFFFF, 0xFFFF, 0xFFFE0001, x7Message⟩ := by decide
/-- X18d: one wrong password byte. -/
theorem test_decrypt_wrong_password_byte :
    outputs (exec .decrypt (loaded [0x61, 0x62, 0x63, 0x64, 0x66] x7Message)) =
      some ⟨0x02, 5, 0, 0, 0, [0x68, 0x65, 0x6B, 0x6C, 0x6F]⟩ := by decide
/-- X18i: a short message and an empty password. -/
theorem test_decrypt_short_before_empty :
    outputs (exec .decrypt (loaded [] (x1Message.take 11))) = some ⟨0x22, 0, 0, 0, 0, []⟩ := by decide
/-- X11: a crafted header whose product wraps is valid. -/
theorem test_check_wrapping_product :
    outputs (exec .check (loaded [0xFE, 0x03] [0xFF, 0x03, 0xFE, 0x83, 0x01, 0x03, 0xFE, 0x03, 0x01, 0x03, 0xFE, 0x83, 0xA8, 0xBE])) =
      some ⟨0x06, 2, 0x80000001, 3, 0x80000003, [0xAA, 0xBB]⟩ := by decide
/-- X8c: a wrong password. -/
theorem test_check_wrong_password :
    outputs (exec .check (loaded [0x4C] x1Message)) = some ⟨0x02, 0, 0xFFFFFF01, 0xFFFFFF02, 0xFFFFFF05, []⟩ := by decide

/-! ### The interface -/

/-- X20d at the interface: an illegal word completes with fault IllegalCommand and CMD reads back the word. -/
theorem test_illegal_word_faults :
    ((next? (step (State.reset.withFetchWord 32 0x103))).map fun t => (t.readReg 0, t.readReg 1)) =
      some (some 0x103, some 0x32) := by decide
/-- X19e: Capacity comes before MalformedMessage. -/
theorem test_capacity_first :
    outputs (step ({ loaded [0x4B] (x1Message.take 11) with klen := 257 }.withFetchWord 32 5)) = some ⟨0x42, 0, 0, 0, 0, []⟩ := by
  decide
/-- X21e: OPA takes bits 15:0. -/
theorem test_write_opa_low_half :
    ((State.reset.writeReg 5 0x12345678).bind fun t => t.readReg 5) = some 0x5678 := by decide
/-- R45: register 10 is outside the interface. -/
theorem test_register_ten_step_refused :
    refusal? (step (State.reset.withAgenda [lineOf (.regRead 10)])) = some (.noSuchRegister 10) := by decide
/-- R14: `0x06` = DONE + VALID, `0x42` = DONE + ERR 4. -/
theorem test_status_words :
    (Status.completed true).toWord = 0x06 ∧ (Status.faulted .capacity).toWord = 0x42 ∧ Status.started.toWord = 0x01 := by decide

/-! ### Witnesses: states and operands that meet the hypotheses of the obligations, at the boundary values of their clauses -/

/-- X1's inputs, and the same with another first operand. -/
def encState : State := { loaded [0x4B] [0x48, 0x49] with opa := 2, opb := 3 }
def encState2 : State := { encState with opa := 0xFFFF }

/-- X1's message as an input, with its password. -/
def msgState : State := loaded [0x4B] x1Message

/-- The host's copy of a result to the input (R128). -/
def moved (t : State) : State := { t with inp := t.out, ilen := t.olen }

/-- `s` with BUSY as a command start leaves it, and the events to come. -/
def started (i : Instr) (es : List Event) (s : State) : State := (startCommand (encode i) s).withAgenda es

/-- StepCompletesTheCommandInCmd, StartedCommandAlwaysCompletes: the three forms of the unit's turn. -/
theorem witness_unit_turn :
    ([[Event.unit], [], [.host (.wait 0)]].map fun es => (started .check es msgState).status.busy) = [true, true, true] ∧
      decodeWord (started .check [] msgState).cmd = .ok .check := by decide

/-- Ready for every command, at the shortest and the longest password and input: KLEN 1 and 256, ILEN 0, 12 and 4096. -/
theorem witness_ready_shift_enc : Ready .shiftEnc (loaded [1] []) := ⟨by decide, by decide, by decide, by decide⟩
theorem witness_ready_shift_enc_full : Ready .shiftEnc { encState with klen := 256, ilen := 4096 } :=
  ⟨by decide, by decide, by decide, by decide⟩
theorem witness_ready_shift_dec : Ready .shiftDec (loaded [1] []) := ⟨by decide, by decide, by decide, by decide⟩
theorem witness_ready_encrypt : Ready .encrypt encState := ⟨by decide, by decide, by decide, by decide⟩
theorem witness_ready_decrypt : Ready .decrypt (loaded [0x4B] (x1Message.take 12)) :=
  ⟨by decide, by decide, by decide, by decide⟩
theorem witness_ready_check : Ready .check msgState := ⟨by decide, by decide, by decide, by decide⟩

/-- The fault clauses of the commands, of FaultChecksInFixedOrder, IllegalWordsFault and FaultEntryIsTheWholeEffect, each with the checks before it passed: an illegal
word, KLEN 257 or ILEN 4097, ILEN 11 with KLEN 256, KLEN 0 with ILEN 12 and with ILEN 0. -/
theorem witness_illegal_events :
    (encState.withAgenda [lineOf (.regWrite 0 6), .unit]).status.busy = false ∧ 5 < (6#32).toNat ∧ (0#32).toNat = 0 := by decide
theorem witness_fault_recorded :
    ((next? (completeCommand ((startCommand 6 encState).withAgenda []))).map fun t => t.status.err) = some (some .illegalCommand) := by
  decide
theorem witness_illegal_word : ∃ e, decodeWord ((startCommand 6 encState).withAgenda [.unit]).cmd = .error e := ⟨.unassignedOp, by decide⟩
theorem witness_capacity :
    (let s := { encState with klen := 257 }; s.params.keyMax < s.klen.toNat) ∧
      (let s := { encState with ilen := 4097 }; s.params.inMax < s.ilen.toNat) := by decide
theorem witness_malformed :
    let s := { loaded [] (x1Message.take 11) with klen := 256 }
    s.klen.toNat ≤ s.params.keyMax ∧ s.ilen.toNat ≤ s.params.inMax ∧ s.ilen.toNat < 12 := by decide
theorem witness_invalid_key :
    (let s := loaded [] (x1Message.take 12)
     s.klen = 0 ∧ 12 ≤ s.ilen.toNat ∧ s.ilen.toNat ≤ s.params.inMax) ∧
      (let s := loaded [] []
       s.klen = 0 ∧ s.ilen.toNat ≤ s.params.inMax ∧
        ¬ ((Instr.encrypt = .decrypt ∨ Instr.encrypt = .check) ∧ s.ilen.toNat < 12)) := by decide

/-- NothingElseFaults, CommandsKeepInputState, CountersAfterCommand, ResultsAreTheClosedForm: every command answers. -/
theorem witness_exec_next :
    [Instr.shiftEnc, .shiftDec, .encrypt, .decrypt, .check].all (fun i => (next? (exec i msgState)).isSome) = true := by decide

/-- The same for one state, with its next state. -/
theorem witness_encrypt_next : Ready .encrypt encState ∧ exec .encrypt encState = .next (encryptInput encState) :=
  ⟨witness_ready_encrypt, exec_encrypt_ready _ witness_ready_encrypt⟩

/-- CmdWriteStartsCommand, RegisterWriteEffects, RegisterReadsHaveNoSideEffect, BufferWriteChangesOneByte,
BufferReadHandsBackTheByte: an idle unit, each register number that exists, the last index of each space. -/
theorem witness_idle_access :
    encState.status.busy = false ∧ (∀ n, n < 10 → (encState.readReg n).isSome = true) ∧
      255 < encState.params.capacity .key ∧ 4095 < encState.params.capacity .inp ∧ 4107 < encState.params.capacity .out := by decide

/-- AccessOutsideInterfaceIsRefused: register 10, and each space's capacity as an index. -/
theorem witness_outside :
    encState.status.busy = false ∧ 9 < 10 ∧ encState.params.capacity .key ≤ 256 ∧ encState.params.capacity .inp ≤ 4096 ∧
      encState.params.capacity .out ≤ 4108 := by decide

/-- OnlyStatusReadsWhileBusy, StepKeepsInvariant: a started command meets the invariant, and its next step goes on. -/
theorem witness_inv_busy (es : List Event) : Inv (started .encrypt es encState) where
  key_wf := (by decide : encState.key.wf = true)
  inp_wf := (by decide : encState.inp.wf = true)
  out_wf := (by decide : encState.out.wf = true)
  key_below := (by decide : encState.key.below 256 = true)
  inp_below := (by decide : encState.inp.below 4096 = true)
  out_defined := fun i => ⟨fun h => absurd h (by simp [started, encState, loaded, State.reset, State.resetFor]),
    fun h => absurd h (by simp [started, encState, loaded, State.reset, State.resetFor])⟩
  olen_le := (by decide : encState.olen.toNat ≤ encState.params.outMax)
  busy_started := fun _ => ⟨rfl, rfl, rfl⟩
  fresh := fun _ => ⟨rfl, rfl, fun h => absurd h (by simp [started])⟩
  valid_header := fun h => absurd h (by simp [started])
  err_no_result := fun h => absurd rfl h
theorem witness_busy_step_next : (next? (step (started .encrypt [.unit] encState))).isSome = true := by decide

/-- OnlyForbiddenMovesAreRefused: a move the host has, and one it has not. -/
theorem witness_allowed : AllowedNext (encState.withAgenda [.host .mov]) := by
  show (0 : Nat) ≤ 4096
  decide
theorem witness_not_allowed : ¬ AllowedNext (started .encrypt [.host .out] encState) := fun h => h

/-- The laws of the transform: a password that is not empty, and cleared counters. -/
theorem witness_password : ([0x4B] : List Byte) ≠ [] ∧ 1 ≤ encState.klen.toNat ∧ encState.kidx = encState.pos % encState.klen.toNat := by
  decide

/-- OutputIsAFunctionOfWordAndInput: two states that differ in the old output and agree on word and input. -/
theorem witness_agree_on_input :
    AgreeOnInput (started .encrypt [] encState) { started .encrypt [] encState with olen := 7, ha := 9, outDraw := 5 } :=
  ⟨rfl, rfl, rfl, rfl, rfl, fun _ _ => rfl, fun _ _ => rfl⟩

/-- PayloadIgnoresOperands: two ready states that differ in an operand only. -/
theorem witness_other_operand :
    Ready .encrypt encState2 ∧ encState2.klen = encState.klen ∧
      (∀ i, i < encState.klen.toNat → encState2.readBuf .key i = encState.readBuf .key i) ∧ encState2.opa ≠ encState.opa ∧
      exec .encrypt encState2 = .next (encryptInput encState2) := by
  have hr : Ready .encrypt encState2 := ⟨by decide, by decide, by decide, by decide⟩
  exact ⟨hr, rfl, fun _ _ => rfl, by decide, exec_encrypt_ready _ hr⟩

/-- PayloadIgnoresOperands, its second clause: the same operands and password, another plaintext of another length. -/
theorem witness_other_plaintext :
    let u := { encState with inp := indexBytes 0 [0x4F], ilen := 1 }
    Ready .encrypt u ∧ u.klen = encState.klen ∧
      (∀ i, i < encState.klen.toNat → u.readBuf .key i = encState.readBuf .key i) ∧
      u.opa = encState.opa ∧ u.opb = encState.opb ∧ u.readBuf .inp 0 ≠ encState.readBuf .inp 0 ∧
      exec .encrypt u = .next (encryptInput u) := by
  intro u
  have hr : Ready .encrypt u := ⟨by decide, by decide, by decide, by decide⟩
  exact ⟨hr, rfl, fun _ _ => rfl, rfl, rfl, by decide, exec_encrypt_ready _ hr⟩

/-- HeaderShowsPasswordBytes: both operands 0. -/
theorem witness_zero_operands : Ready .encrypt (loaded [0x4B] []) ∧ (loaded [0x4B] []).opa = 0 ∧ (loaded [0x4B] []).opb = 0 :=
  ⟨⟨by decide, by decide, by decide, by decide⟩, rfl, rfl⟩

theorem moved_result (t : State) (h : ∀ i, i < t.olen.toNat → (t.out.read i).isSome = true) : ResultMovedToInput t (moved t) := by
  refine ⟨rfl, rfl, fun _ _ => rfl, rfl, fun i hi => ?_⟩
  obtain ⟨b, hb⟩ := Option.isSome_iff_exists.1 (h i hi)
  simp [State.readBuf, State.buffer, moved, hb]

/-- EncryptThenDecryptRoundTrip, EncryptThenCheckAccepts: X1's ENCRYPT and the copy of its result. -/
theorem witness_encrypt_moved :
    encState.ilen.toNat ≤ encState.params.inMax - 12 ∧
      ResultMovedToInput (encryptInput encState) (moved (encryptInput encState)) :=
  ⟨by decide, moved_result _ (by decide)⟩

/-- ShiftDirectionsAreInverse: SHIFT_ENC and the copy of its result. -/
theorem witness_shift_moved :
    Ready .shiftEnc encState ∧ exec .shiftEnc encState = .next (shiftInput .enc encState) ∧
      ResultMovedToInput (shiftInput .enc encState) (moved (shiftInput .enc encState)) := by
  have hr : Ready .shiftEnc encState := ⟨by decide, by decide, by decide, by decide⟩
  exact ⟨hr, exec_shiftEnc_ready _ hr, moved_result _ (by decide)⟩

/-- ValidCheckAgreesWithDecrypt: both outcomes of CHECK occur. -/
theorem witness_check_both_outcomes :
    ((next? (exec .check msgState)).map fun t => t.status.valid) = some true ∧
      ((next? (exec .check (loaded [0x4C] x1Message))).map fun t => t.status.valid) = some false ∧
      (next? (exec .decrypt msgState)).isSome = true := by decide

/-- CheckIgnoresPayloadForValidity: X1's message and the same with its last byte changed. -/
theorem witness_payload_changed :
    let u := { msgState with inp := msgState.inp.write 13 0x00 }
    u.params = msgState.params ∧ u.klen = msgState.klen ∧ u.ilen = msgState.ilen ∧
      (∀ i, i < msgState.klen.toNat → u.readBuf .key i = msgState.readBuf .key i) ∧ (∀ i, i < 12 → u.readBuf .inp i = msgState.readBuf .inp i) ∧
      u.readBuf .inp 13 ≠ msgState.readBuf .inp 13 ∧ (next? (exec .check u)).isSome = true := by decide

/-- CheckOfBareHeader: 12 bytes. -/
theorem witness_bare_header :
    let s := loaded [0x4B] (x1Message.take 12)
    s.ilen.toNat = 12 ∧ 1 ≤ s.klen.toNat ∧ s.klen.toNat ≤ s.params.keyMax := by decide

/-- ResetEventAbandonsCommand, IdleUnitKeepsResults, OnlyHostAndResetChangeInputState: a reset during a command, and an idle
unit whose next event is another register write or a buffer write. -/
theorem witness_reset_event : (started .encrypt [.reset] encState).agenda = .reset :: [] := rfl
theorem witness_idle_steps :
    (next? (step (encState.withAgenda [lineOf (.regWrite 2 9)]))).isSome = true ∧
      ((next? (step (encState.withAgenda [lineOf (.bufWrite .key 255 9)]))).map fun t => t.key) = some [(0, 0x4B), (255, 9)] := by
  decide

/-- RunLinePerformsOneCommand, KeyAndMsgLinesLoadInputs, MovLineMovesResultToInput, OutLineHandsBackTheResult and the calls: an
idle unit, a password of one byte, a plaintext of two; and an OLEN above IN_MAX for the refused `mov`. -/
theorem witness_scripts :
    encState.status.busy = false ∧ ([0x4B] : List Byte).length ≤ encState.params.keyMax ∧
      ([0x48, 0x49] : List Byte).length + 12 ≤ encState.params.inMax ∧ encState.olen.toNat ≤ encState.params.inMax ∧
      encState.params.inMax < ({ encState with olen := 4097 } : State).olen.toNat := by decide

/-- FreeValuesDoNotReachTheEndState: the host has written every input byte. -/
theorem witness_inputs_written : InputsWritten (started .encrypt [] encState) := ⟨by decide, by decide⟩
theorem witness_complete_next : (next? (completeCommand (started .encrypt [] encState))).isSome = true := by decide

end Sys2Proof.Tests
end

/-! PROOFS. The input and output state of a command (`10_state.md` R31, R32) and the reset state (R33): O33, O34, O46. -/

namespace Sys2Proof.Machine

/-! ### R31: a completion keeps its input state -/

/-- Fault entry keeps the frame of a command. -/
theorem takeFault_frame (f : FaultCode) (s : State) : CommandFrame s (takeFault f s) :=
  (takeFault_entered f s).frame

/-- A legal command keeps its frame, whether it faults or delivers. -/
theorem exec_frame {i : Instr} {s t : State} (h : exec i s = .next t) : CommandFrame s t := by
  rcases exec_cases i s with ⟨f, _, e⟩ | ⟨_, v, hd, r, p, k, e, _, _⟩
  · cases e.symm.trans h
    exact takeFault_frame f s
  · cases e.symm.trans h
    exact deliver_frame v hd r s p k

/-- A completion keeps the frame of a command, whatever word stands in CMD. -/
theorem completeCommand_frame {s t : State} (h : completeCommand s = .next t) : CommandFrame s t := by
  obtain ⟨u, hu, hcase⟩ := completeCommand_cases s
  cases hu.symm.trans h
  rcases hcase with ⟨f, rfl⟩ | ⟨_, v, hd, r, p, k, _, rfl, _, _⟩
  · exact takeFault_frame f s
  · exact deliver_frame v hd r s p k

/-- Settles O33: `exec` and the completion step both keep the frame. -/
theorem commandsKeepInputState : Obligations.CommandsKeepInputState := by
  rintro s t (⟨i, h⟩ | h)
  · exact exec_frame h
  · exact completeCommand_frame h

/-! ### What a completion is, by the word in CMD and by the fault check -/

/-- A legal word completes as its command. -/
theorem completeCommand_of_ok {s : State} {i : Instr} (h : decodeWord s.cmd = .ok i) :
    completeCommand s = exec i s := by
  simp [completeCommand, h]

/-- An illegal word completes with the fault IllegalCommand (R105). -/
theorem completeCommand_of_error {s : State} {e : Illegal} (h : decodeWord s.cmd = .error e) :
    completeCommand s = .next (takeFault .illegalCommand s) := by
  simp [completeCommand, h]

/-- The state a command leaves when no check fires; `exec_ready` ties it to `exec`. -/
def ownEffect : Instr → State → State
  | .shiftEnc => shiftInput .enc
  | .shiftDec => shiftInput .dec
  | .encrypt => encryptInput
  | .decrypt => decryptInput
  | .check => checkInput

theorem exec_ready {i : Instr} {s : State} (h : Ready i s) : exec i s = .next (ownEffect i s) := by
  cases i with
  | shiftEnc => exact exec_shiftEnc_ready s h
  | shiftDec => exact exec_shiftDec_ready s h
  | encrypt => exact exec_encrypt_ready s h
  | decrypt => exact exec_decrypt_ready s h
  | check => exact exec_check_ready s h

/-! ### What two states share that agree on the input state -/

section Agree
variable {s t : State}

/-- The fault check of R108 reads nothing but KLEN, ILEN and the capacities. -/
theorem AgreeOnInput.faultCheck_eq (h : AgreeOnInput s t) (i : Instr) : faultCheck i t = faultCheck i s := by
  simp only [faultCheck, h.params, h.klen, h.ilen]

theorem AgreeOnInput.inputSlice_eq (h : AgreeOnInput s t) {lo len : Nat} (hlen : lo + len ≤ s.ilen.toNat) :
    t.inputSlice lo len = s.inputSlice lo len := by
  refine List.ext_getElem (by simp) fun j hj _ => ?_
  rw [State.inputSlice_length] at hj
  rw [State.inputSlice_getElem, State.inputSlice_getElem, h.inp _ (by omega)]

theorem AgreeOnInput.input_eq (h : AgreeOnInput s t) : t.input = s.input := by
  unfold State.input
  rw [h.ilen, h.inputSlice_eq (by omega)]

theorem AgreeOnInput.builtHeader_eq (h : AgreeOnInput s t) : t.builtHeader = s.builtHeader := by
  unfold State.builtHeader
  rw [h.opa, h.opb]

theorem AgreeOnInput.preCipher_eq (h : AgreeOnInput s t) : t.preCipher = s.preCipher := by
  unfold State.preCipher
  rw [h.builtHeader_eq, h.input_eq]

/-- The byte steps read the password and KIDX, and nothing else of the state (R76). -/
theorem AgreeOnInput.transform_eq (h : AgreeOnInput s t) (hk : t.kidx = s.kidx) (hlt : s.kidx < s.klen.toNat)
    (dir : Direction) (xs : List Byte) : (transform dir xs t).1 = (transform dir xs s).1 := by
  refine List.ext_getElem? fun j => ?_
  have hmod : (s.kidx + j) % s.klen.toNat < s.klen.toNat := Nat.mod_lt _ (by omega)
  rw [transform_getElem? dir xs t (by rwa [hk, h.klen]), transform_getElem? dir xs s hlt, hk, h.klen, h.key _ hmod]

theorem AgreeOnInput.clearCounters (h : AgreeOnInput s t) : AgreeOnInput s.clearCounters t.clearCounters :=
  ⟨h.params, h.klen, h.ilen, h.opa, h.opb, h.key, h.inp⟩

theorem AgreeOnInput.afterHeader (h : AgreeOnInput s t) :
    AgreeOnInput (Machine.afterHeader s) (Machine.afterHeader t) :=
  ⟨h.params, h.klen, h.ilen, h.opa, h.opb, h.key, h.inp⟩

/-- From cleared counters the byte steps do not depend on the counters an earlier command left (R32). -/
theorem AgreeOnInput.transform_clear_eq (h : AgreeOnInput s t) (hk : 1 ≤ s.klen.toNat) (dir : Direction)
    (xs : List Byte) : (transform dir xs t.clearCounters).1 = (transform dir xs s.clearCounters).1 :=
  h.clearCounters.transform_eq rfl hk dir xs

theorem AgreeOnInput.checkedHeader_eq (h : AgreeOnInput s t) (hk : 1 ≤ s.klen.toNat) (hl : 12 ≤ s.ilen.toNat) :
    checkedHeader t = checkedHeader s := by
  unfold checkedHeader
  rw [h.inputSlice_eq (by simpa [hdrLen] using hl), h.transform_clear_eq hk]

/-- The payload bytes of CHECK, decoded from position 12 on with the password cycle going on (R92). -/
theorem AgreeOnInput.checkedPayload_eq (h : AgreeOnInput s t) (hk : 1 ≤ s.klen.toNat) (hl : 12 ≤ s.ilen.toNat) :
    (transform .dec (t.inputSlice hdrLen (t.ilen.toNat - hdrLen)) (Machine.afterHeader t)).1 =
      (transform .dec (s.inputSlice hdrLen (s.ilen.toNat - hdrLen)) (Machine.afterHeader s)).1 := by
  have hkidx : (Machine.afterHeader t).kidx = (Machine.afterHeader s).kidx := by simp only [Machine.afterHeader, h.klen]
  rw [h.ilen, h.inputSlice_eq (by unfold hdrLen; omega)]
  exact h.afterHeader.transform_eq hkidx (Nat.mod_lt _ hk) _ _

end Agree

/-! ### R32: the output state is a function of the word and the input state -/

/-- What a completion delivers is the whole output state, from whatever state it is delivered. -/
theorem deliver_sameOutput (v : Bool) (h : Header) (r : List Byte) (s t : State) :
    SameOutput (deliver v h r s) (deliver v h r t) where
  status := rfl
  olen := rfl
  ha := rfl
  hb := rfl
  hc := rfl
  out i hi := by
    have hr : i < r.length := hi.trans_le (Nat.mod_le _ _)
    rw [deliver_readBuf_out v h r t i hr, deliver_readBuf_out v h r s i hr]

/-- Fault entry with one code leaves one output state. -/
theorem takeFault_sameOutput (f : FaultCode) (s t : State) : SameOutput (takeFault f s) (takeFault f t) where
  status := rfl
  olen := rfl
  ha := rfl
  hb := rfl
  hc := rfl
  out i hi := absurd hi (Nat.not_lt_zero i)

section Agree
variable {s t : State}

theorem shiftInput_sameOutput (h : AgreeOnInput s t) (hk : 1 ≤ s.klen.toNat) (dir : Direction) :
    SameOutput (shiftInput dir s) (shiftInput dir t) := by
  rw [shiftInput_eq dir s hk, shiftInput_eq dir t (h.klen ▸ hk), h.input_eq, h.transform_clear_eq hk]
  exact deliver_sameOutput ..

theorem encryptInput_sameOutput (h : AgreeOnInput s t) (hk : 1 ≤ s.klen.toNat) :
    SameOutput (encryptInput s) (encryptInput t) := by
  rw [encryptInput_eq s hk, encryptInput_eq t (h.klen ▸ hk), h.preCipher_eq, h.builtHeader_eq, h.transform_clear_eq hk]
  exact deliver_sameOutput ..

theorem decryptInput_sameOutput (h : AgreeOnInput s t) (hk : 1 ≤ s.klen.toNat) :
    SameOutput (decryptInput s) (decryptInput t) := by
  rw [decryptInput_eq s hk, decryptInput_eq t (h.klen ▸ hk), h.input_eq, h.transform_clear_eq hk]
  exact deliver_sameOutput ..

/-- Both outcomes of CHECK: the checksum is the same in the two states, and so is what is delivered. -/
theorem checkInput_sameOutput (h : AgreeOnInput s t) (hk : 1 ≤ s.klen.toNat) (hl : 12 ≤ s.ilen.toNat) :
    SameOutput (checkInput s) (checkInput t) := by
  have hkt : 1 ≤ t.klen.toNat := h.klen ▸ hk
  have hlt : 12 ≤ t.ilen.toNat := h.ilen ▸ hl
  have hhead : checkedHeader t = checkedHeader s := h.checkedHeader_eq hk hl
  cases hc : checksumOk (checkedHeader s) with
  | false =>
    rw [checkInput_bad s hk hc, checkInput_bad t hkt (hhead ▸ hc), hhead]
    exact deliver_sameOutput ..
  | true =>
    rw [checkInput_good s hk hl hc, checkInput_good t hkt hlt (hhead ▸ hc), hhead, h.checkedPayload_eq hk hl]
    exact deliver_sameOutput ..

theorem ownEffect_sameOutput {i : Instr} (h : AgreeOnInput s t) (hr : Ready i s) :
    SameOutput (ownEffect i s) (ownEffect i t) := by
  cases i with
  | shiftEnc => exact shiftInput_sameOutput h hr.klen_pos .enc
  | shiftDec => exact shiftInput_sameOutput h hr.klen_pos .dec
  | encrypt => exact encryptInput_sameOutput h hr.klen_pos
  | decrypt => exact decryptInput_sameOutput h hr.klen_pos
  | check => exact checkInput_sameOutput h hr.klen_pos (hr.has_header rfl)

/-- A legal command takes the same fault in both states, or has its own effect in both. -/
theorem exec_sameOutput {i : Instr} {s' t' : State} (h : AgreeOnInput s t) (hs : exec i s = .next s')
    (ht : exec i t = .next t') : SameOutput s' t' := by
  cases hf : faultCheck i s with
  | some f =>
    cases (exec_fault i s f hf).symm.trans hs
    cases (exec_fault i t f (by rw [h.faultCheck_eq, hf])).symm.trans ht
    exact takeFault_sameOutput f s t
  | none =>
    have hrs : Ready i s := (faultCheck_eq_none_iff i s).1 hf
    have hrt : Ready i t := (faultCheck_eq_none_iff i t).1 (by rw [h.faultCheck_eq, hf])
    cases (exec_ready hrs).symm.trans hs
    cases (exec_ready hrt).symm.trans ht
    exact ownEffect_sameOutput h hrs

end Agree

/-- Settles O34: both completions decode one word; an illegal one faults in both, a legal one is `exec_sameOutput`. -/
theorem outputIsAFunctionOfWordAndInput : Obligations.OutputIsAFunctionOfWordAndInput := by
  intro s t s' t' hcmd h hs ht
  cases hd : decodeWord s.cmd with
  | ok i =>
    rw [completeCommand_of_ok hd] at hs
    rw [completeCommand_of_ok (hcmd ▸ hd)] at ht
    exact exec_sameOutput h hs ht
  | error e =>
    cases (completeCommand_of_error hd).symm.trans hs
    cases (completeCommand_of_error (hcmd ▸ hd)).symm.trans ht
    exact takeFault_sameOutput .illegalCommand s t

/-! ### R33: the reset state -/

theorem Status.reset_toWord : Status.reset.toWord = 0 := by decide

theorem resetFor_readReg (p : Params) {n : Nat} (hn : n ≤ 9) : (State.resetFor p).readReg n = some 0 := by
  interval_cases n <;> simp [State.readReg, State.resetFor, Status.reset_toWord]

theorem resetFor_buffer_read (p : Params) (sp : Space) (i : Nat) : ((State.resetFor p).buffer sp).read i = none := by
  cases sp <;> rfl

/-- A command that needs no header, issued right after reset, finds no password. -/
theorem exec_resetFor_invalidKey (p : Params) (w : Word) {i : Instr} (hh : needsHeader i = false) :
    exec i (startCommand w (State.resetFor p)) =
      .next (takeFault .invalidKey (startCommand w (State.resetFor p))) :=
  exec_fault _ _ _ (faultCheck_invalidKey i _ (Nat.zero_le _) (by simp [hh]) rfl)

/-- A command that needs a header, issued right after reset, finds no message; that check comes before the password's. -/
theorem exec_resetFor_malformedMessage (p : Params) (w : Word) {i : Instr} (hh : needsHeader i = true) :
    exec i (startCommand w (State.resetFor p)) =
      .next (takeFault .malformedMessage (startCommand w (State.resetFor p))) :=
  exec_fault _ _ _ (faultCheck_malformed i _ (Nat.zero_le _) (Nat.zero_le _) hh (Nat.zero_lt_succ 11))

/-- Settles O46: every register by its number, every buffer, and the fault by whether the command needs a header. -/
theorem resetStateOfEveryInstance : Obligations.ResetStateOfEveryInstance := by
  intro p
  refine ⟨fun n hn => resetFor_readReg p hn, rfl, rfl, rfl, resetFor_buffer_read p, fun i hi => ?_, fun i hi => ?_⟩
  · have hh : needsHeader i = false := by rcases hi with rfl | rfl | rfl <;> rfl
    exact ⟨_, exec_resetFor_invalidKey p _ hh, rfl⟩
  · have hh : needsHeader i = true := by rcases hi with rfl | rfl <;> rfl
    exact ⟨_, exec_resetFor_malformedMessage p _ hh, rfl⟩

end Sys2Proof.Machine

/-! PROOFS. The host's accesses at the unit's port (`20_memory.md` R41 to R45): O16, O13, O14, O18. -/

namespace Sys2Proof.Machine

/-! ### What one access does, inside the interface and outside it -/

theorem hostAccess_regRead {s : State} {n : Nat} {v : Word} (h : s.readReg n = some v) :
    hostAccess (.regRead n) s = .next (s.observe (.reg n v)) := by
  simp [hostAccess, h]

theorem hostAccess_regWrite {s t : State} {n : Nat} {v : Word} (h : s.writeReg n v = some t) :
    hostAccess (.regWrite n v) s = .next t := by
  simp [hostAccess, h]

theorem hostAccess_bufWrite {s : State} {sp : Space} {i : Nat} (v : Byte) (h : i < s.params.capacity sp) :
    hostAccess (.bufWrite sp i v) s = .next (s.writeBuf sp i v) :=
  if_pos h

theorem hostAccess_regRead_above {s : State} {n : Nat} (h : 9 < n) :
    hostAccess (.regRead n) s = .refused (.noSuchRegister n) := by
  simp [hostAccess, s.readReg_above n h]

theorem hostAccess_regWrite_above {s : State} {n : Nat} (v : Word) (h : 9 < n) :
    hostAccess (.regWrite n v) s = .refused (.noSuchRegister n) := by
  simp [hostAccess, s.writeReg_above n v h]

theorem hostAccess_bufRead_outside {s : State} {sp : Space} {i : Nat} (h : s.params.capacity sp ≤ i) :
    hostAccess (.bufRead sp i) s = .refused (.noSuchIndex sp i) :=
  if_neg (Nat.not_lt.2 h)

theorem hostAccess_bufWrite_outside {s : State} {sp : Space} {i : Nat} (v : Byte) (h : s.params.capacity sp ≤ i) :
    hostAccess (.bufWrite sp i v) s = .refused (.noSuchIndex sp i) :=
  if_neg (Nat.not_lt.2 h)

/-- While `BUSY = 1` the host may read STATUS and nothing else (R124). -/
theorem busyLine_access {a : HostAccess} (hne : a ≠ .regRead 1) (s : State) :
    busyLine (.access a) s = .refused .hostAccessWhileBusy := by
  match a with
  | .regRead 1 => exact absurd rfl hne
  | .regRead 0 | .regRead (_ + 2) => rfl
  | .regWrite _ _ | .bufRead _ _ | .bufWrite _ _ _ => rfl

/-! ### A step whose event is one access -/

section Access
variable {s : State} {a : HostAccess} {es : List Event} (ha : s.agenda = .host (.access a) :: es)
include ha

theorem step_access_idle (hb : s.status.busy = false) : step s = hostAccess a (s.withAgenda es) :=
  step_host_idle s (.access a) es hb ha

theorem step_access_busy (hb : s.status.busy = true) (hne : a ≠ .regRead 1) :
    step s = .refused .hostAccessWhileBusy :=
  (step_host_busy s (.access a) es hb ha).trans (busyLine_access hne _)

/-- An access that an idle unit refuses is refused by every unit, unless it is the STATUS read. -/
theorem step_access_refused {r : Refusal} (hne : a ≠ .regRead 1)
    (hr : hostAccess a (s.withAgenda es) = .refused r) :
    (∃ r', step s = .refused r') ∧ (s.status.busy = false → step s = .refused r) := by
  have hidle (hb : s.status.busy = false) : step s = .refused r := (step_access_idle ha hb).trans hr
  refine ⟨?_, hidle⟩
  cases hb : s.status.busy with
  | true => exact ⟨_, step_access_busy ha hb hne⟩
  | false => exact ⟨r, hidle hb⟩

end Access

/-! ### R44: a byte write -/

/-- A byte write is confined to the fields KEY and IN. -/
theorem State.writeBuf_eq (s : State) (sp : Space) (i : Nat) (v : Byte) :
    s.writeBuf sp i v = { s with key := (s.writeBuf sp i v).key, inp := (s.writeBuf sp i v).inp } := by
  cases sp <;> rfl

/-- Settles O16: the step is `writeBuf`, read back at the written index, at every other, and as a whole state. -/
theorem bufferWriteChangesOneByte : Obligations.BufferWriteChangesOneByte := by
  intro s sp i v es hb hi ha
  refine ⟨(s.withAgenda es).writeBuf sp i v, ?_, fun h => ?_, fun sp' j h => ?_, ?_, ?_⟩
  · exact (step_access_idle ha hb).trans (hostAccess_bufWrite v hi)
  · exact State.writeBuf_readBuf_same _ sp i v h
  · rw [State.writeBuf_readBuf_other _ sp sp' i j v h, State.withAgenda_readBuf]
  · rintro rfl
    rw [State.writeBuf_out, State.withAgenda_readBuf]
  · exact State.writeBuf_eq (s.withAgenda es) sp i v

/-! ### R42: a register write -/

/-- Settles O13: the step is `writeReg` of the register's number; bits 15:0 of a word are its low half. -/
theorem registerWriteEffects : Obligations.RegisterWriteEffects := by
  intro s n v es hb ha
  have hstep {t : State} (h : (s.withAgenda es).writeReg n v = some t) : step s = .next t :=
    (step_access_idle ha hb).trans (hostAccess_regWrite h)
  have hlow : v.extractLsb' 0 16 = v.setWidth 16 := (BitVec.setWidth_eq_extractLsb' (by decide)).symm
  rw [hlow]
  refine ⟨?_, ?_, ?_, ?_, ?_, fun hn => hstep ?_⟩
  case refine_6 => rcases hn with rfl | rfl | rfl | rfl | rfl <;> rfl
  all_goals rintro rfl; exact hstep rfl

/-! ### R41: a register read -/

/-- The registers in the order of their numbers (R12), what is not there included. -/
theorem State.readReg_eq_getElem? (s : State) (n : Nat) :
    s.readReg n =
      [s.cmd, s.status.toWord, s.klen, s.ilen, s.olen, s.opa.setWidth 32, s.opb.setWidth 32, s.ha, s.hb, s.hc][n]? := by
  by_cases h : n ≤ 9
  · interval_cases n <;> rfl
  · rw [s.readReg_above n (by omega), List.getElem?_eq_none (by simp; omega)]

/-- Settles O14: a register up to number 9 has a value, and the step is its observation. -/
theorem registerReadsHaveNoSideEffect : Obligations.RegisterReadsHaveNoSideEffect := by
  intro s n es hb hn ha
  obtain ⟨v, hv⟩ := Option.isSome_iff_exists.1 ((s.readReg_isSome n).2 hn)
  refine ⟨v, s.readReg_eq_getElem? n ▸ hv, ?_⟩
  have hv' : (s.withAgenda es).readReg n = some v := hv
  exact (step_access_idle ha hb).trans (hostAccess_regRead hv')

/-! ### R45: outside the interface -/

/-- Settles O18: the idle unit refuses each of the four by name, and none of them is the STATUS read. -/
theorem accessOutsideInterfaceIsRefused : Obligations.AccessOutsideInterfaceIsRefused := by
  intro s es
  refine ⟨fun n hn ha => ?_, fun n v hn ha => ?_, fun sp i hi ha => ?_, fun sp i v hi ha => ?_⟩
  · have hne : HostAccess.regRead n ≠ .regRead 1 := by rintro ⟨⟩; omega
    exact step_access_refused ha hne (hostAccess_regRead_above hn)
  · exact step_access_refused ha nofun (hostAccess_regWrite_above v hn)
  · exact step_access_refused ha nofun (hostAccess_bufRead_outside hi)
  · exact step_access_refused ha nofun (hostAccess_bufWrite_outside v hi)

end Sys2Proof.Machine

/-! PROOFS. The command words and the CMD write (`30_encoding.md` R53, R56, R59, R105): O2, O12, O3. -/

namespace Sys2Proof

/-! ### The decoder, said once: which word decodes to which command -/

/-- A command word is one with RSV zero and the command's code in OP (R55, R56, R58). -/
theorem decodeWord_ok_iff_fields (w : Word) (i : Instr) :
    decodeWord w = .ok i ↔ rsvField w = 0#24 ∧ opField w = opcode i := by
  constructor
  · intro h
    unfold decodeWord at h
    split_ifs at h with hrsv <;> cases h <;> exact ⟨not_not.1 hrsv, ‹_›⟩
  · rintro ⟨hrsv, hop⟩
    cases i <;> simp [decodeWord, hrsv, hop, opcode]

/-- A word is its two fields, so one with RSV zero is OP zero-extended (R55). -/
theorem eq_setWidth_iff_fields (w : Word) (op : BitVec 8) :
    w = op.setWidth 32 ↔ rsvField w = 0#24 ∧ opField w = op := by
  simp only [rsvField, opField, ← BitVec.toNat_inj, BitVec.extractLsb'_toNat, BitVec.toNat_setWidth,
    BitVec.toNat_ofNat, Nat.shiftRight_eq_div_pow]
  omega

/-- On all words, decoding answers a command exactly for the word that encoding gives it (R56, R58). -/
theorem decodeWord_ok_iff_encode (w : Word) (i : Instr) : decodeWord w = .ok i ↔ w = encode i :=
  (decodeWord_ok_iff_fields w i).trans (eq_setWidth_iff_fields w (opcode i)).symm

/-- The opcode table prints the word that encoding gives (R56). -/
theorem encode_eq_tableMatch (i : Instr) : encode i = tableMatch i := by
  cases i <;> rfl

/-- The table's mask leaves a word whole (R56). -/
theorem and_tableMask (w : Word) : w &&& tableMask = w :=
  BitVec.and_allOnes

/-- R56 for one row of the opcode table. -/
theorem decodeWord_ok_iff_match (w : Word) (i : Instr) : decodeWord w = .ok i ↔ w &&& tableMask = tableMatch i := by
  rw [and_tableMask, ← encode_eq_tableMatch, decodeWord_ok_iff_encode]

/-- Settles O2: each row of the table, its mask and match written out. -/
theorem wordIsCommandExactlyWhenItMatches : Obligations.WordIsCommandExactlyWhenItMatches := fun w =>
  ⟨decodeWord_ok_iff_match w .shiftEnc, decodeWord_ok_iff_match w .shiftDec, decodeWord_ok_iff_match w .encrypt,
    decodeWord_ok_iff_match w .decrypt, decodeWord_ok_iff_match w .check⟩

/-- The command words are the numbers 1 to 5 (R56, R59). -/
theorem exists_eq_encode_iff (w : Word) : (∃ i, w = encode i) ↔ 1 ≤ w.toNat ∧ w.toNat ≤ 5 := by
  constructor
  · rintro ⟨i, rfl⟩
    cases i <;> decide
  · rintro ⟨hlo, hhi⟩
    have hw : w = BitVec.ofNat 32 w.toNat := by simp
    rw [hw]
    interval_cases w.toNat
    exacts [⟨.shiftEnc, rfl⟩, ⟨.shiftDec, rfl⟩, ⟨.encrypt, rfl⟩, ⟨.decrypt, rfl⟩, ⟨.check, rfl⟩]

/-- Decoding answers Illegal exactly where it answers no command. -/
theorem decodeWord_error_iff_not_ok (w : Word) : (∃ e, decodeWord w = .error e) ↔ ¬ ∃ i, decodeWord w = .ok i := by
  cases decodeWord w <;> simp

/-- The illegal words by number (R59). -/
theorem decodeWord_error_iff (w : Word) : (∃ e, decodeWord w = .error e) ↔ w.toNat = 0 ∨ 5 < w.toNat := by
  simp only [decodeWord_error_iff_not_ok, decodeWord_ok_iff_encode, exists_eq_encode_iff]
  omega

end Sys2Proof

namespace Sys2Proof.Machine

/-! ### R53: the CMD write -/

/-- A host write to CMD of an idle unit is the command start. -/
theorem step_cmdWrite {s : State} {w : Word} {es : List Event} (hb : s.status.busy = false)
    (ha : s.agenda = .host (.access (.regWrite 0 w)) :: es) : step s = .next (startCommand w (s.withAgenda es)) :=
  (step_access_idle ha hb).trans (hostAccess_regWrite rfl)

/-- Settles O12: the step is the command start, whose fields are the laws of `startCommand`. -/
theorem cmdWriteStartsCommand : Obligations.CmdWriteStartsCommand := by
  intro s w es hb ha
  exact ⟨_, step_cmdWrite hb ha, by simp⟩

/-- A host write to CMD, then the unit's turn: the completion of the word written. -/
theorem runSteps_cmdWrite_unit {s : State} {w : Word} {es : List Event} (hb : s.status.busy = false)
    (ha : s.agenda = .host (.access (.regWrite 0 w)) :: .unit :: es) :
    runSteps 2 s = completeCommand ((startCommand w s).withAgenda es) := by
  obtain ⟨t, ht, -⟩ := completeCommand_cases ((startCommand w s).withAgenda es)
  have hturn : step (startCommand w (s.withAgenda (.unit :: es))) = .next t :=
    (step_unit_busy _ es rfl rfl).trans ht
  rw [runSteps_succ 1 s _ (step_cmdWrite hb ha), runSteps_succ 0 _ t hturn, runSteps_zero, ht]

/-! ### R105: IllegalCommand is the fault of the illegal words and of no other -/

/-- The checks of a legal command are the other three of R108. -/
theorem faultCheck_ne_illegalCommand (i : Instr) (s : State) : faultCheck i s ≠ some .illegalCommand := by
  unfold faultCheck
  split_ifs <;> simp

/-- A legal command never completes with IllegalCommand. -/
theorem exec_err_ne_illegalCommand {i : Instr} {s t : State} (h : exec i s = .next t) :
    t.status.err ≠ some .illegalCommand := by
  rcases exec_cases i s with ⟨f, hf, e⟩ | ⟨_, v, hd, r, p, k, e, _, _⟩
  · cases e.symm.trans h
    exact fun he => faultCheck_ne_illegalCommand i s (hf.trans he)
  · cases e.symm.trans h
    simp

/-- A completion shows IllegalCommand exactly when the word in CMD decodes to no command. -/
theorem completeCommand_illegalCommand_iff {s t : State} (h : completeCommand s = .next t) :
    t.status.err = some .illegalCommand ↔ ∃ e, decodeWord s.cmd = .error e := by
  cases hd : decodeWord s.cmd with
  | ok i => simpa using exec_err_ne_illegalCommand ((completeCommand_of_ok hd).symm.trans h)
  | error e =>
    cases (completeCommand_of_error hd).symm.trans h
    simp

/-- An illegal word completes by fault entry. -/
theorem completeCommand_faultEntered {s t : State} (h : completeCommand s = .next t)
    (hd : ∃ e, decodeWord s.cmd = .error e) : FaultEntered .illegalCommand s t := by
  obtain ⟨e, he⟩ := hd
  cases (completeCommand_of_error he).symm.trans h
  exact takeFault_entered .illegalCommand s

/-- Settles O3: the two steps are the completion of the word, and the word is illegal by its number. -/
theorem illegalWordsFault : Obligations.IllegalWordsFault := by
  intro w
  refine ⟨decodeWord_error_iff w, fun s es hb ha => ?_⟩
  obtain ⟨t, ht, -⟩ := completeCommand_cases ((startCommand w s).withAgenda es)
  have herr := completeCommand_illegalCommand_iff ht
  have hentry := completeCommand_faultEntered ht
  rw [State.withAgenda_cmd, startCommand_cmd, decodeWord_error_iff] at herr hentry
  exact ⟨t, (runSteps_cmdWrite_unit hb ha).trans ht, herr, hentry⟩

end Sys2Proof.Machine

/-! PROOFS. The two raw transform commands (`40_transform.md` R70, R71, R74): O28, O29, O24. -/

namespace Sys2Proof.Machine

/-! ### The faults of a legal command, by what fires -/

/-- A legal command whose fault check fires completes by fault entry. -/
theorem exec_faultEntered {i : Instr} {s : State} {f : FaultCode} (h : faultCheck i s = some f) :
    ∃ t, exec i s = .next t ∧ FaultEntered f s t :=
  ⟨_, exec_fault i s f h, takeFault_entered f s⟩

/-- R106: a length above its capacity. -/
theorem exec_capacity (i : Instr) {s : State} (h : s.params.keyMax < s.klen.toNat ∨ s.params.inMax < s.ilen.toNat) :
    ∃ t, exec i s = .next t ∧ FaultEntered .capacity s t :=
  exec_faultEntered (faultCheck_capacity i s h)

/-- R103 for a command that needs no header: an empty password. -/
theorem exec_invalidKey {i : Instr} {s : State} (hh : needsHeader i = false) (hk : s.klen = 0)
    (hi : s.ilen.toNat ≤ s.params.inMax) : ∃ t, exec i s = .next t ∧ FaultEntered .invalidKey s t :=
  exec_faultEntered (faultCheck_invalidKey i s hi (by simp [hh]) hk)

/-! ### The raw transform, said once for both directions -/

/-- The command of a direction; `exec_shiftCommand` ties it to `exec`. -/
def shiftCommand : Direction → Instr
  | .enc => .shiftEnc
  | .dec => .shiftDec

theorem exec_shiftCommand {dir : Direction} {s : State} (h : Ready (shiftCommand dir) s) :
    exec (shiftCommand dir) s = .next (shiftInput dir s) := by
  cases dir with
  | enc => exact exec_shiftEnc_ready s h
  | dec => exact exec_shiftDec_ready s h

theorem shiftInput_frame {dir : Direction} {s : State} (h : Ready (shiftCommand dir) s) :
    CommandFrame s (shiftInput dir s) :=
  exec_frame (exec_shiftCommand h)

theorem needsHeader_shiftCommand (dir : Direction) : needsHeader (shiftCommand dir) = false := by
  cases dir <;> rfl

section ShiftInput
variable {s : State} (hk : 1 ≤ s.klen.toNat) (dir : Direction)
include hk

theorem shiftInput_olen : (shiftInput dir s).olen = s.ilen := by
  simp [shiftInput_eq dir s hk]

theorem shiftInput_completed : CompletedWith false (shiftInput dir s) := by
  rw [shiftInput_eq dir s hk]
  exact deliver_completed ..

/-- Result byte `n` (R70, R71): the input byte combined with `KEY[n mod KLEN]`. -/
theorem shiftInput_readBuf_out {n : Nat} (hn : n < s.ilen.toNat) :
    (shiftInput dir s).readBuf .out n = dir.apply (s.readBuf .inp n) (s.readBuf .key (n % s.klen.toNat)) := by
  have hlen : n < (transform dir s.input s.clearCounters).1.length := by simpa using hn
  rw [shiftInput_eq dir s hk, deliver_readBuf_out _ _ _ _ n hlen, List.getElem_eq_iff,
    transform_clear_getElem? dir _ s hk, State.input_getElem?, if_pos hn, Option.map_some]

end ShiftInput

/-- R70 and R71 where no check fires. -/
theorem shiftCommand_result {dir : Direction} {s : State} (h : Ready (shiftCommand dir) s) :
    ∃ t, exec (shiftCommand dir) s = .next t ∧
      (∀ n, n < s.ilen.toNat →
        t.readBuf .out n = dir.apply (s.readBuf .inp n) (s.readBuf .key (n % s.klen.toNat))) ∧
      t.olen = s.ilen ∧ t.ha = 0 ∧ t.hb = 0 ∧ t.hc = 0 ∧ CompletedWith false t ∧ CommandFrame s t :=
  ⟨shiftInput dir s, exec_shiftCommand h, fun _ hn => shiftInput_readBuf_out h.klen_pos dir hn,
    shiftInput_olen h.klen_pos dir, rfl, rfl, rfl, shiftInput_completed h.klen_pos dir, shiftInput_frame h⟩

/-- Settles O28: the result at direction ENC, and the two faults a command without a header can take. -/
theorem shiftEncCommand : Obligations.ShiftEncCommand :=
  ⟨rfl, fun _ => ⟨shiftCommand_result (dir := .enc), exec_capacity .shiftEnc, exec_invalidKey rfl⟩⟩

/-- Settles O29: the same at direction DEC. -/
theorem shiftDecCommand : Obligations.ShiftDecCommand :=
  ⟨rfl, fun _ => ⟨shiftCommand_result (dir := .dec), exec_capacity .shiftDec, exec_invalidKey rfl⟩⟩

/-! ### R74: the two directions undo each other -/

/-- The other direction; `Direction.opposite_apply_apply` says what it is for. -/
def Direction.opposite : Direction → Direction
  | .enc => .dec
  | .dec => .enc

/-- Byte by byte, one direction undoes the other: subtraction modulo 256 undoes addition, and addition subtraction. -/
@[simp] theorem Direction.opposite_apply_apply (dir : Direction) (x k : Byte) :
    dir.opposite.apply (dir.apply x k) k = x := by
  cases dir with
  | enc => exact BitVec.add_sub_cancel x k
  | dec => exact BitVec.sub_add_cancel x k

/-- R74 as functions: byte `n` meets the same password byte both times. -/
theorem shift_opposite_shift (dir : Direction) (buf key : List Byte) :
    shift dir.opposite (shift dir buf key) key = buf := by
  refine List.ext_getElem? fun n => ?_
  rw [shift_getElem?, shift_getElem?, Option.map_map]
  simp [Function.comp_def]

/-- The moved result of one raw transform is ready for the next, in whatever direction. -/
theorem ready_shiftCommand_of_moved {dir dir' : Direction} {s u : State} (h : Ready (shiftCommand dir) s)
    (hmove : ResultMovedToInput (shiftInput dir s) u) : Ready (shiftCommand dir') u where
  klen_pos := by rw [hmove.klen, (shiftInput_frame h).inputs.klen]; exact h.klen_pos
  klen_le := by
    rw [hmove.klen, hmove.params, (shiftInput_frame h).inputs.klen, (shiftInput_frame h).inputs.params]
    exact h.klen_le
  ilen_le := by
    rw [hmove.ilen, hmove.params, shiftInput_olen h.klen_pos, (shiftInput_frame h).inputs.params]
    exact h.ilen_le
  has_header hh := by simp [needsHeader_shiftCommand] at hh

/-- R74 as commands: the raw transform of the moved result in the other direction leaves the original input in OUT. -/
theorem shiftInput_opposite_of_moved {dir : Direction} {s u : State} (h : Ready (shiftCommand dir) s)
    (hmove : ResultMovedToInput (shiftInput dir s) u) {n : Nat} (hn : n < s.ilen.toNat) :
    (shiftInput dir.opposite u).readBuf .out n = s.readBuf .inp n := by
  have hold : (shiftInput dir s).olen = s.ilen := shiftInput_olen h.klen_pos dir
  have hsame : SameInput s (shiftInput dir s) := (shiftInput_frame h).inputs
  have hklen : u.klen = s.klen := hmove.klen.trans hsame.klen
  have hlt : n % s.klen.toNat < (shiftInput dir s).klen.toNat := by rw [hsame.klen]; exact Nat.mod_lt _ h.klen_pos
  have hkey : u.readBuf .key (n % s.klen.toNat) = s.readBuf .key (n % s.klen.toNat) := by
    rw [hmove.key _ hlt, hsame.key]
  have hinp : u.readBuf .inp n = dir.apply (s.readBuf .inp n) (s.readBuf .key (n % s.klen.toNat)) := by
    rw [hmove.inp n (by rwa [hold]), shiftInput_readBuf_out h.klen_pos dir hn]
  rw [shiftInput_readBuf_out (hklen ▸ h.klen_pos) _ (by rwa [hmove.ilen, hold]), hklen, hinp, hkey,
    Direction.opposite_apply_apply]

/-- The two orders of the two commands are a direction and its opposite. -/
theorem exists_shiftCommand_of_pair {i j : Instr}
    (h : (i = .shiftEnc ∧ j = .shiftDec) ∨ (i = .shiftDec ∧ j = .shiftEnc)) :
    ∃ dir : Direction, i = shiftCommand dir ∧ j = shiftCommand dir.opposite := by
  rcases h with ⟨rfl, rfl⟩ | ⟨rfl, rfl⟩
  · exact ⟨.enc, rfl, rfl⟩
  · exact ⟨.dec, rfl, rfl⟩

/-- Settles O24: as functions at each direction; as commands, the second one is ready and undoes the first byte by byte. -/
theorem shiftDirectionsAreInverse : Obligations.ShiftDirectionsAreInverse := by
  refine ⟨fun buf key _ => ⟨shift_opposite_shift .enc buf key, shift_opposite_shift .dec buf key⟩, ?_⟩
  intro s t u i j hij h ht hmove
  obtain ⟨dir, rfl, rfl⟩ := exists_shiftCommand_of_pair hij
  cases (exec_shiftCommand h).symm.trans ht
  have hu : Ready (shiftCommand dir.opposite) u := ready_shiftCommand_of_moved h hmove
  refine ⟨shiftInput dir.opposite u, exec_shiftCommand hu, (shiftInput_completed hu.klen_pos _).err, ?_, fun n hn => ?_⟩
  · rw [shiftInput_olen hu.klen_pos, hmove.ilen, shiftInput_olen h.klen_pos]
  · exact shiftInput_opposite_of_moved h hmove hn

end Sys2Proof.Machine

/-! PROOFS. The header product and ENCRYPT (`41_encrypt.md` R78, R79): O22, O30. -/

namespace Sys2Proof.Machine

/-! ### R79: the header product does not wrap -/

/-- The product of two 16-bit operands is at most `0xFFFF * 0xFFFF = 0xFFFE0001`. -/
theorem Half.toNat_mul_toNat_le (a b : Half) : a.toNat * b.toNat ≤ 0xFFFE0001 :=
  Nat.mul_le_mul (Nat.le_pred_of_lt a.isLt) (Nat.le_pred_of_lt b.isLt)

/-- On zero-extended operands `mul32` is the product over the integers. -/
theorem mul32_setWidth_toNat (a b : Half) :
    (mul32 (a.setWidth 32) (b.setWidth 32)).toNat = a.toNat * b.toNat := by
  have hlt : a.toNat * b.toNat < 2 ^ 32 := (Half.toNat_mul_toNat_le a b).trans_lt (by decide)
  have hwide : 16 ≤ 32 := by decide
  rw [mul32, BitVec.toNat_mul, BitVec.toNat_setWidth_of_le hwide, BitVec.toNat_setWidth_of_le hwide,
    Nat.mod_eq_of_lt hlt]

/-- A built header satisfies the checksum of R93: its third word is defined as the product of the other two. -/
theorem checksumOk_headerOf (a b : Half) : checksumOk (headerOf a b) = true :=
  beq_self_eq_true _

/-- Settles O22: the exact product, its bound, and the two operands zero-extended. -/
theorem headerProductIsExact : Obligations.HeaderProductIsExact := by
  intro a b
  have hc : (headerOf a b).c.toNat = a.toNat * b.toNat := mul32_setWidth_toNat a b
  exact ⟨hc, hc.trans_le (Half.toNat_mul_toNat_le a b), BitVec.toNat_setWidth_of_le (by decide),
    BitVec.toNat_setWidth_of_le (by decide), checksumOk_headerOf a b⟩

/-! ### R38: the pre-cipher buffer by index -/

@[simp] theorem State.preCipher_length (s : State) : s.preCipher.length = s.ilen.toNat + 12 := by
  simp [State.preCipher, Nat.add_comm]

/-- Below 12 the pre-cipher buffer is the built header. -/
theorem State.preCipher_getElem?_header (s : State) {i : Nat} (hi : i < 12) :
    s.preCipher[i]? = s.builtHeader.bytes[i]? :=
  List.getElem?_append_left hi

/-- From 12 on the pre-cipher buffer is the plaintext. -/
theorem State.preCipher_getElem?_payload (s : State) {j : Nat} (hj : j < s.ilen.toNat) :
    s.preCipher[12 + j]? = some (s.readBuf .inp j) := by
  rw [State.preCipher, List.getElem?_append_right (by simp), Header.bytes_length, Nat.add_sub_cancel_left,
    State.input_getElem?, if_pos hj]

/-! ### R78: what ENCRYPT leaves -/

section EncryptInput
variable {s : State}

/-- Result byte `n` (R78): byte `n` of the pre-cipher buffer with `KEY[n mod KLEN]`, the key index running on from header
byte 0. -/
theorem encryptInput_readBuf_out (hk : 1 ≤ s.klen.toNat) {n : Nat} {x : Byte} (hx : s.preCipher[n]? = some x) :
    (encryptInput s).readBuf .out n = add8 x (s.readBuf .key (n % s.klen.toNat)) := by
  have hlen : n < (transform .enc s.preCipher s.clearCounters).1.length := by
    rw [transform_length]
    exact (List.getElem?_eq_some_iff.1 hx).1
  rw [encryptInput_eq s hk, deliver_readBuf_out _ _ _ _ n hlen, List.getElem_eq_iff,
    transform_clear_getElem? .enc _ s hk, hx, Option.map_some, Direction.apply]

/-- A header byte of the result. -/
theorem encryptInput_readBuf_header (hk : 1 ≤ s.klen.toNat) {i : Nat} (hi : i < 12) :
    ∃ x, s.builtHeader.bytes[i]? = some x ∧
      (encryptInput s).readBuf .out i = add8 x (s.readBuf .key (i % s.klen.toNat)) := by
  have hx : s.builtHeader.bytes[i]? = some (s.builtHeader.bytes[i]) := List.getElem?_eq_getElem hi
  exact ⟨_, hx, encryptInput_readBuf_out hk ((s.preCipher_getElem?_header hi).trans hx)⟩

/-- A payload byte of the result. -/
theorem encryptInput_readBuf_payload (hk : 1 ≤ s.klen.toNat) {j : Nat} (hj : j < s.ilen.toNat) :
    (encryptInput s).readBuf .out (12 + j) =
      add8 (s.readBuf .inp j) (s.readBuf .key ((12 + j) % s.klen.toNat)) :=
  encryptInput_readBuf_out hk (s.preCipher_getElem?_payload hj)

/-- OLEN does not wrap: a plaintext that fits IN has a result that fits OUT, whose size is below `2^32` (R5). -/
theorem encryptInput_olen_toNat (h : Ready .encrypt s) : (encryptInput s).olen.toNat = s.ilen.toNat + 12 := by
  have hfit : s.ilen.toNat + 12 < 2 ^ 32 := (Nat.add_le_add_right h.ilen_le 12).trans_lt s.params.outMax_lt
  rw [encryptInput_eq s h.klen_pos, deliver_olen_toNat _ _ _ _ (by simpa using hfit), transform_length,
    State.preCipher_length]

theorem encryptInput_completed (s : State) : CompletedWith false (encryptInput s) :=
  deliver_completed ..

theorem encryptInput_frame (h : Ready .encrypt s) : CommandFrame s (encryptInput s) :=
  exec_frame (exec_encrypt_ready s h)

end EncryptInput

/-- Settles O30: the result byte by byte where no check fires, and the two faults a command without a header can take. -/
theorem encryptCommand : Obligations.EncryptCommand := by
  refine ⟨rfl, fun s => ⟨fun h => ⟨encryptInput s, exec_encrypt_ready s h, ?_, encryptInput_completed s,
    encryptInput_frame h⟩, exec_capacity .encrypt, exec_invalidKey rfl⟩⟩
  exact ⟨fun _ hi => encryptInput_readBuf_header h.klen_pos hi, fun _ hj => encryptInput_readBuf_payload h.klen_pos hj,
    encryptInput_olen_toNat h, rfl, rfl, rfl⟩

end Sys2Proof.Machine

/-! PROOFS. DECRYPT (`42_decrypt.md` R85, R86): O31. -/

namespace Sys2Proof.Machine

/-! ### The faults of a command that needs a header, by what fires -/

/-- R104: an input shorter than a header. It is within IN, which has room for a header (R5), so Capacity does not fire. -/
theorem exec_malformedMessage {i : Instr} {s : State} (hh : needsHeader i = true)
    (hk : s.klen.toNat ≤ s.params.keyMax) (hl : s.ilen.toNat < 12) :
    ∃ t, exec i s = .next t ∧ FaultEntered .malformedMessage s t :=
  exec_faultEntered (faultCheck_malformed i s hk (hl.le.trans s.params.inMax_ge) hh hl)

/-- R103 for an input long enough for a header: an empty password. -/
theorem exec_invalidKey_of_header (i : Instr) {s : State} (hk : s.klen = 0) (hl : 12 ≤ s.ilen.toNat)
    (hi : s.ilen.toNat ≤ s.params.inMax) : ∃ t, exec i s = .next t ∧ FaultEntered .invalidKey s t :=
  exec_faultEntered (faultCheck_invalidKey i s hi (fun _ => hl) hk)

/-! ### R85: what DECRYPT leaves -/

section DecryptInput
variable {s : State}

/-- What DECRYPT delivers has 12 bytes less than its input. -/
theorem decryptInput_payload_length (s : State) :
    ((transform .dec s.input s.clearCounters).1.drop hdrLen).length = s.ilen.toNat - 12 := by
  rw [List.length_drop, transform_length, State.input_length, hdrLen]

/-- Result byte `j` (R85): input byte `12 + j`, with the key index counted from message byte 0 although 12 bytes are dropped. -/
theorem decryptInput_readBuf_out (hk : 1 ≤ s.klen.toNat) {j : Nat} (hj : 12 + j < s.ilen.toNat) :
    (decryptInput s).readBuf .out j =
      sub8 (s.readBuf .inp (12 + j)) (s.readBuf .key ((12 + j) % s.klen.toNat)) := by
  have hlen : j < ((transform .dec s.input s.clearCounters).1.drop hdrLen).length := by
    rw [decryptInput_payload_length]
    exact Nat.lt_sub_iff_add_lt'.2 hj
  rw [decryptInput_eq s hk, deliver_readBuf_out _ _ _ _ j hlen, List.getElem_eq_iff, List.getElem?_drop, hdrLen,
    transform_clear_getElem? .dec _ s hk, State.input_getElem?, if_pos hj, Option.map_some, Direction.apply]

theorem decryptInput_olen_toNat (hk : 1 ≤ s.klen.toNat) : (decryptInput s).olen.toNat = s.ilen.toNat - 12 := by
  have hfit : s.ilen.toNat - 12 < 2 ^ 32 := (Nat.sub_le ..).trans_lt s.ilen.isLt
  rw [decryptInput_eq s hk, deliver_olen_toNat _ _ _ _ (by rwa [decryptInput_payload_length]),
    decryptInput_payload_length]

theorem decryptInput_completed (s : State) : CompletedWith false (decryptInput s) :=
  deliver_completed ..

theorem decryptInput_frame (h : Ready .decrypt s) : CommandFrame s (decryptInput s) :=
  exec_frame (exec_decrypt_ready s h)

end DecryptInput

/-- R85 where no check fires. -/
theorem decrypt_result {s : State} (h : Ready .decrypt s) :
    ∃ t, exec .decrypt s = .next t ∧
      (∀ i, 12 ≤ i → i < s.ilen.toNat →
        t.readBuf .out (i - 12) = sub8 (s.readBuf .inp i) (s.readBuf .key (i % s.klen.toNat))) ∧
      t.olen.toNat = s.ilen.toNat - 12 ∧ t.ha = 0 ∧ t.hb = 0 ∧ t.hc = 0 ∧ CompletedWith false t ∧ CommandFrame s t := by
  refine ⟨decryptInput s, exec_decrypt_ready s h, fun i hi hlt => ?_, decryptInput_olen_toNat h.klen_pos, rfl, rfl, rfl,
    decryptInput_completed s, decryptInput_frame h⟩
  obtain ⟨j, rfl⟩ := Nat.exists_eq_add_of_le hi
  rw [Nat.add_sub_cancel_left]
  exact decryptInput_readBuf_out h.klen_pos hlt

/-- Settles O31: the result byte by byte where no check fires, and the three faults a command with a header can take. -/
theorem decryptCommand : Obligations.DecryptCommand :=
  ⟨rfl, fun _ => ⟨decrypt_result, exec_capacity .decrypt, exec_malformedMessage rfl, exec_invalidKey_of_header .decrypt⟩⟩

end Sys2Proof.Machine

/-! PROOFS. CHECK (`43_check.md` R92, R93): O32. -/

namespace Sys2Proof.Machine

/-! ### R93: the checksum over the integers -/

theorem checksumOk_iff_toNat (h : Header) :
    checksumOk h = true ↔ h.a.toNat * h.b.toNat % 2 ^ 32 = h.c.toNat := by
  rw [checksumOk, beq_iff_eq, mul32, ← BitVec.toNat_inj, BitVec.toNat_mul]

theorem checksumOk_eq_false_iff_toNat (h : Header) :
    checksumOk h = false ↔ h.a.toNat * h.b.toNat % 2 ^ 32 ≠ h.c.toNat := by
  rw [← Bool.not_eq_true, checksumOk_iff_toNat]

/-! ### R92: the 12 header bytes and the words parsed from them -/

/-- Message byte `i` decoded (R67): what CHECK parses below 12 and delivers from 12 on; `checkedHeader_eq` and
`checkInput_readBuf_out` tie it to the command. -/
def State.decodedByte (s : State) (i : Nat) : Byte :=
  sub8 (s.readBuf .inp i) (s.readBuf .key (i % s.klen.toNat))

/-- The header whose words are bytes 0 to 3, 4 to 7 and 8 to 11 of a byte sequence (R91). -/
def headerOfBytes (h : Nat → Byte) : Header where
  a := unle32 (h 0) (h 1) (h 2) (h 3)
  b := unle32 (h 4) (h 5) (h 6) (h 7)
  c := unle32 (h 8) (h 9) (h 10) (h 11)

theorem parseHeader_eq_headerOfBytes {bytes : List Byte} {h : Nat → Byte} (hb : ∀ i, i < 12 → bytes[i]? = some (h i)) :
    parseHeader bytes = headerOfBytes h := by
  simp [parseHeader, headerOfBytes, hb]

section CheckInput
variable {s : State} (hk : 1 ≤ s.klen.toNat)
include hk

theorem checkedHeader_eq : checkedHeader s = headerOfBytes s.decodedByte :=
  parseHeader_eq_headerOfBytes fun i hi => by
    rw [transform_clear_getElem? .dec _ s hk, State.inputSlice_getElem?, hdrLen, if_pos hi, Nat.zero_add,
      Option.map_some, Direction.apply, State.decodedByte]

/-! ### R92: what CHECK delivers where the checksum holds -/

/-- Payload byte `j`: the key index goes on from 12, so it is counted from message byte 0 (R94). -/
theorem checkedPayload_getElem? {j : Nat} (hj : 12 + j < s.ilen.toNat) :
    (transform .dec (s.inputSlice hdrLen (s.ilen.toNat - hdrLen)) (afterHeader s)).1[j]? =
      some (s.decodedByte (12 + j)) := by
  have hkidx : (afterHeader s).kidx < (afterHeader s).klen.toNat := Nat.mod_lt _ hk
  have hcycle : ((afterHeader s).kidx + j) % (afterHeader s).klen.toNat = (12 + j) % s.klen.toNat :=
    Nat.mod_add_mod ..
  rw [transform_getElem? .dec _ _ hkidx, State.inputSlice_getElem?, hdrLen, if_pos (Nat.lt_sub_iff_add_lt'.2 hj),
    hcycle]
  rfl

variable (hl : 12 ≤ s.ilen.toNat)
include hl

/-- HA, HB, HC are the parsed words in both outcomes. -/
theorem checkInput_header_words :
    (checkInput s).ha = (checkedHeader s).a ∧ (checkInput s).hb = (checkedHeader s).b ∧
      (checkInput s).hc = (checkedHeader s).c := by
  cases hc : checksumOk (checkedHeader s) with
  | false => rw [checkInput_bad s hk hc]; exact ⟨rfl, rfl, rfl⟩
  | true => rw [checkInput_good s hk hl hc]; exact ⟨rfl, rfl, rfl⟩

variable (hc : checksumOk (checkedHeader s) = true)
include hc

theorem checkInput_readBuf_out {j : Nat} (hj : 12 + j < s.ilen.toNat) :
    (checkInput s).readBuf .out j = s.decodedByte (12 + j) := by
  have hget := checkedPayload_getElem? hk hj
  obtain ⟨hlen, hval⟩ := List.getElem?_eq_some_iff.1 hget
  rw [checkInput_good s hk hl hc, deliver_readBuf_out _ _ _ _ j hlen, hval]

theorem checkInput_olen_toNat : (checkInput s).olen.toNat = s.ilen.toNat - 12 := by
  have hfit : s.ilen.toNat - 12 < 2 ^ 32 := (Nat.sub_le ..).trans_lt s.ilen.isLt
  rw [checkInput_good s hk hl hc, deliver_olen_toNat _ _ _ _ (by simpa [hdrLen] using hfit), transform_length,
    State.inputSlice_length, hdrLen]

theorem checkInput_completed_true : CompletedWith true (checkInput s) := by
  rw [checkInput_good s hk hl hc]
  exact deliver_completed ..

end CheckInput

/-- R92 where the checksum fails: no result. -/
theorem checkInput_rejects {s : State} (hk : 1 ≤ s.klen.toNat) (hc : checksumOk (checkedHeader s) = false) :
    CompletedWith false (checkInput s) ∧ (checkInput s).olen = 0 := by
  rw [checkInput_bad s hk hc]
  exact ⟨deliver_completed .., rfl⟩

/-- R92 where the checksum holds: VALID = 1 and the decoded payload. -/
theorem checkInput_accepts {s : State} (h : Ready .check s) (hc : checksumOk (checkedHeader s) = true) :
    CompletedWith true (checkInput s) ∧ (checkInput s).olen.toNat = s.ilen.toNat - 12 ∧
      ∀ i, 12 ≤ i → i < s.ilen.toNat → (checkInput s).readBuf .out (i - 12) = s.decodedByte i := by
  have hk : 1 ≤ s.klen.toNat := h.klen_pos
  have hl : 12 ≤ s.ilen.toNat := h.has_header rfl
  refine ⟨checkInput_completed_true hk hl hc, checkInput_olen_toNat hk hl hc, fun i hi hlt => ?_⟩
  obtain ⟨j, rfl⟩ := Nat.exists_eq_add_of_le hi
  rw [Nat.add_sub_cancel_left]
  exact checkInput_readBuf_out hk hl hc hlt

/-- Settles O32: the two outcomes by the checksum over the integers where no check fires, and the three faults a command with
a header can take. -/
theorem checkCommand : Obligations.CheckCommand := by
  refine ⟨rfl, fun s => ⟨fun h => ?_, exec_capacity .check, exec_malformedMessage rfl, exec_invalidKey_of_header .check⟩⟩
  have hexec : exec .check s = .next (checkInput s) := exec_check_ready s h
  have hhead : checkedHeader s = headerOfBytes s.decodedByte := checkedHeader_eq h.klen_pos
  obtain ⟨ha, hb, hc⟩ := checkInput_header_words h.klen_pos (h.has_header rfl)
  rw [hhead] at ha hb hc
  refine ⟨checkInput s, hexec, ⟨ha, hb, hc, fun hne => ?_, fun heq => ?_⟩, exec_frame hexec⟩
  · exact checkInput_rejects h.klen_pos (hhead ▸ (checksumOk_eq_false_iff_toNat _).2 hne)
  · exact checkInput_accepts h (hhead ▸ (checksumOk_iff_toNat _).2 heq)

end Sys2Proof.Machine

/-! PROOFS. Fault entry and what faults (`60_exceptions.md` R107, R110): O9, O10. -/

namespace Sys2Proof.Machine

/-- A completion that records a fault is `takeFault` with that fault: a delivered result has ERR = 0. -/
theorem completeCommand_eq_takeFault {s t : State} {f : FaultCode} (h : completeCommand s = .next t)
    (he : t.status.err = some f) : t = takeFault f s := by
  obtain ⟨u, hu, hcase⟩ := completeCommand_cases s
  cases hu.symm.trans h
  rcases hcase with ⟨g, rfl⟩ | ⟨_, v, hd, r, p, k, _, rfl, _, _⟩
  · have hg : g = f := Option.some.inj ((takeFault_entered g s).err.symm.trans he)
    rw [hg]
  · have hnone := (deliver_completed v hd r { s with pos := p, kidx := k }).err
    exact absurd (hnone.symm.trans he) (Option.some_ne_none f).symm

/-- Settles O9: the completed state is `takeFault`, whose whole effect is `takeFault_entered`. -/
theorem faultEntryIsTheWholeEffect : Obligations.FaultEntryIsTheWholeEffect := by
  intro s t f h he
  rw [completeCommand_eq_takeFault h he]
  exact takeFault_entered f s

/-- ERR after a legal command is what the fault check of R108 answers. -/
theorem exec_err {i : Instr} {s t : State} (h : exec i s = .next t) : t.status.err = faultCheck i s := by
  rcases exec_cases i s with ⟨f, hf, e⟩ | ⟨hr, v, hd, r, p, k, e, _, _⟩
  · cases e.symm.trans h
    exact (takeFault_entered f s).err.trans hf.symm
  · cases e.symm.trans h
    exact (deliver_completed v hd r _).err.trans ((faultCheck_eq_none_iff i s).2 hr).symm

/-- Settles O10: ERR is the answer of the fault check, and no check fires exactly when the command is `Ready`. -/
theorem nothingElseFaults : Obligations.NothingElseFaults := by
  intro i s t h
  rw [exec_err h]
  exact faultCheck_eq_none_iff i s

end Sys2Proof.Machine

/-! PROOFS. The command words and their place in the opcode table's numbering (`30_encoding.md` R55 to R58): O4, O1. -/

namespace Sys2Proof

/-! ### One row of the opcode table -/

/-- The fields of every command's word (R55, R56). -/
theorem tableRow (i : Instr) : Laws.TableRow.Statement i := by
  cases i with
  | shiftEnc => exact Laws.TableRow.shiftEnc
  | shiftDec => exact Laws.TableRow.shiftDec
  | encrypt => exact Laws.TableRow.encrypt
  | decrypt => exact Laws.TableRow.decrypt
  | check => exact Laws.TableRow.check

theorem Instr.wellFormed_eq_true (i : Instr) : i.wellFormed = true := by
  obtain ⟨hrsv, hop, hlo, hhi, -, -⟩ := tableRow i
  simp [Instr.wellFormed, wordWellFormed, hrsv, hop, hlo, hhi]

/-! ### The table's numbering -/

/-- A 32-bit word is numbered as it is (R55). -/
theorem tableWord_toNat (w : Word) : tableWord 32 w.toNat = w := by
  rw [tableWord, Nat.mod_eq_of_lt w.isLt, BitVec.ofNat_toNat, BitVec.setWidth_eq]

theorem decodeTableWord_toNat_eq_some_iff (w : Word) (i : Instr) :
    decodeTableWord 32 w.toNat = some i ↔ decodeWord w = .ok i := by
  rw [decodeTableWord, tableWord_toNat]
  cases decodeWord w <;> simp

theorem decodeWord_encode (i : Instr) : decodeWord (encode i) = .ok i :=
  (decodeWord_ok_iff_encode _ i).2 rfl

theorem decodeTableWord_encode (i : Instr) : decodeTableWord 32 (encode i).toNat = some i :=
  (decodeTableWord_toNat_eq_some_iff _ i).2 (decodeWord_encode i)

/-- Settles O4: the word's fields make it well formed, and the decoder answers a command exactly for its word. -/
theorem encodeAndDecodeAreInverse : Obligations.EncodeAndDecodeAreInverse := fun i w =>
  ⟨i.wellFormed_eq_true, decodeTableWord_encode i, decodeWord_ok_iff_encode w i⟩

/-- Settles O1: the five binary numerals are the numbers of the five commands' words. -/
theorem commandWordsDecode : Obligations.CommandWordsDecode :=
  ⟨decodeTableWord_encode .shiftEnc, decodeTableWord_encode .shiftDec, decodeTableWord_encode .encrypt,
    decodeTableWord_encode .decrypt, decodeTableWord_encode .check⟩

end Sys2Proof

/-! PROOFS. The machine's invariant: the reset state and every step (`10_state.md` R33, `70_reset_and_hazards.md` R119,
R120): O49, O48, O47. -/

namespace Sys2Proof.Machine

section Invariant
variable {s : State}

/-! ### What the invariant does not speak of -/

/-- The invariant says nothing of the input registers, the host's side and the counters of the free values. -/
theorem Inv.with_unconstrained (h : Inv s) (cmd klen ilen : Word) (opa opb : Half) (es : List Event)
    (seen : List Observation) (m n : Nat) :
    Inv { s with
      cmd := cmd, klen := klen, ilen := ilen, opa := opa, opb := opb, agenda := es, seen := seen,
      resetDraw := m, outDraw := n } :=
  ⟨h.key_wf, h.inp_wf, h.out_wf, h.key_below, h.inp_below, h.out_defined, h.olen_le, h.busy_started, h.fresh,
    h.valid_header, h.err_no_result⟩

theorem Inv.withAgenda (h : Inv s) (es : List Event) : Inv (s.withAgenda es) :=
  h.with_unconstrained ..

theorem Inv.observe (h : Inv s) (o : Observation) : Inv (s.observe o) :=
  h.with_unconstrained ..

/-! ### Reset -/

/-- Settles O48: no buffer byte is defined, OLEN is 0 and STATUS is 0. -/
theorem resetMeetsInvariant : Obligations.ResetMeetsInvariant := fun p =>
  { key_wf := resetFor_buffers_wf p .key
    inp_wf := resetFor_buffers_wf p .inp
    out_wf := resetFor_buffers_wf p .out
    key_below := rfl
    inp_below := rfl
    out_defined := fun i => by simp [State.resetFor]
    olen_le := Nat.zero_le _
    busy_started := nofun
    fresh := fun _ => ⟨rfl, rfl, fun _ => ⟨rfl, rfl, rfl, rfl⟩⟩
    valid_header := nofun
    err_no_result := fun h => absurd rfl h }

theorem inv_takeReset (s : State) : Inv (takeReset s) :=
  (resetMeetsInvariant s.params).with_unconstrained ..

/-! ### Host writes -/

/-- A command start sets STATUS and the counters as a busy unit has them; OUT and OLEN stay. -/
theorem Inv.startCommand (h : Inv s) (w : Word) : Inv (Machine.startCommand w s) where
  key_wf := h.key_wf
  inp_wf := h.inp_wf
  out_wf := h.out_wf
  key_below := h.key_below
  inp_below := h.inp_below
  out_defined := h.out_defined
  olen_le := h.olen_le
  busy_started _ := ⟨rfl, rfl, rfl⟩
  fresh _ := ⟨rfl, rfl, nofun⟩
  valid_header := nofun
  err_no_result he := absurd rfl he

theorem Inv.writeReg {t : State} (h : Inv s) {n : Nat} {v : Word} (hw : s.writeReg n v = some t) : Inv t := by
  rcases s.writeReg_cases t n v hw with ⟨-, rfl⟩ | ⟨-, rfl⟩ | ⟨-, rfl⟩ | ⟨-, rfl⟩ | ⟨-, rfl⟩ | ⟨-, rfl⟩
  · exact h.startCommand v
  · exact h.with_unconstrained s.cmd v ..
  · exact h.with_unconstrained s.cmd s.klen v ..
  · exact h.with_unconstrained s.cmd s.klen s.ilen (v.setWidth 16) ..
  · exact h.with_unconstrained s.cmd s.klen s.ilen s.opa (v.setWidth 16) ..
  · exact h

/-- A byte write within the space keeps the buffer canonical and within its space. -/
theorem Inv.writeBuf (h : Inv s) {sp : Space} {i : Nat} (hi : i < s.params.capacity sp) (v : Byte) :
    Inv (s.writeBuf sp i v) := by
  cases sp with
  | key => exact { h with key_wf := s.key.write_wf i v h.key_wf, key_below := s.key.write_below _ i v h.key_below hi }
  | inp => exact { h with inp_wf := s.inp.write_wf i v h.inp_wf, inp_below := s.inp.write_below _ i v h.inp_below hi }
  | out => exact h

/-! ### The two ways a command completes -/

theorem Inv.takeFault (h : Inv s) (f : FaultCode) : Inv (Machine.takeFault f s) where
  key_wf := h.key_wf
  inp_wf := h.inp_wf
  out_wf := rfl
  key_below := h.key_below
  inp_below := h.inp_below
  out_defined i := by simp
  olen_le := Nat.zero_le _
  busy_started := nofun
  fresh := nofun
  valid_header := nofun
  err_no_result _ := ⟨rfl, rfl, rfl, rfl, rfl⟩

/-- A delivered result that fits OUT is defined exactly below OLEN, which does not wrap (R5). -/
theorem Inv.deliver (h : Inv s) {v : Bool} {hd : Header} {r : List Byte} (p k : Nat) (hr : r.length ≤ s.params.outMax)
    (hv : v = true → mul32 hd.a hd.b = hd.c) : Inv (Machine.deliver v hd r { s with pos := p, kidx := k }) := by
  have holen : (Machine.deliver v hd r { s with pos := p, kidx := k }).olen.toNat = r.length :=
    deliver_olen_toNat v hd r _ (hr.trans_lt s.params.outMax_lt)
  exact
    { key_wf := h.key_wf
      inp_wf := h.inp_wf
      out_wf := indexBytes_wf r 0
      key_below := h.key_below
      inp_below := h.inp_below
      out_defined := fun i => by rw [holen, deliver_out, indexBytes_read_zero]; simp
      olen_le := holen.trans_le hr
      busy_started := nofun
      fresh := nofun
      valid_header := fun hvalid => ⟨rfl, rfl, hv hvalid⟩
      err_no_result := fun he => absurd rfl he }

/-- A completion keeps the invariant: the input of a command that delivers fits IN, so its result fits OUT. -/
theorem Inv.completeCommand {t : State} (h : Inv s) (hc : Machine.completeCommand s = .next t) : Inv t := by
  obtain ⟨u, hu, hcase⟩ := completeCommand_cases s
  cases hu.symm.trans hc
  rcases hcase with ⟨f, rfl⟩ | ⟨i, v, hd, r, p, k, hready, rfl, hlen, hv⟩
  · exact h.takeFault f
  · exact h.deliver p k (hlen.trans (Nat.add_le_add_right hready.ilen_le 12)) hv

end Invariant

/-- Settles O49: each of the ways a step can go on keeps the invariant. -/
theorem stepKeepsInvariant : Obligations.StepKeepsInvariant := by
  intro s t h hstep
  rcases step_cases s t hstep with ⟨es, rfl⟩ | ⟨es, o, rfl⟩ | ⟨es, -, rfl⟩ | ⟨es, -, hc⟩ | ⟨es, n, v, -, -, hw⟩ |
    ⟨es, sp, i, v, -, -, hi, rfl⟩
  · exact h.withAgenda es
  · exact (h.withAgenda es).observe o
  · exact inv_takeReset _
  · exact (h.withAgenda es).completeCommand hc
  · exact (h.withAgenda es).writeReg hw
  · exact (h.withAgenda es).writeBuf hi v

/-! ### A reset event -/

/-- The registers after a reset are those of the reset state. -/
theorem takeReset_readReg (s : State) (n : Nat) : (takeReset s).readReg n = (State.resetFor s.params).readReg n := by
  rw [State.readReg_eq_getElem?, State.readReg_eq_getElem?]
  rfl

theorem takeReset_buffer_read (s : State) (sp : Space) (i : Nat) : ((takeReset s).buffer sp).read i = none := by
  cases sp <;> rfl

/-- Settles O47: the step is `takeReset`, whatever STATUS is. -/
theorem resetEventAbandonsCommand : Obligations.ResetEventAbandonsCommand := fun s es ha =>
  ⟨takeReset (s.withAgenda es), step_reset s es ha, fun n hn => (takeReset_readReg _ n).trans (resetFor_readReg _ hn),
    rfl, rfl, rfl, takeReset_buffer_read _, rfl, rfl⟩

end Sys2Proof.Machine

/-! PROOFS. The unit's turn and the order of the fault checks (`30_encoding.md` R54, `60_exceptions.md` R108): O5, O6, O7,
O8. -/

namespace Sys2Proof.Machine

/-! ### Where the unit takes its turn -/

/-- Settles O5: each of the three steps is the completion step, and a legal word completes as its command. -/
theorem stepCompletesTheCommandInCmd : Obligations.StepCompletesTheCommandInCmd := by
  intro s i hb hd
  refine ⟨fun es ha => ?_, fun ha => ?_, fun es ha => ?_⟩
  · have hd' : decodeWord (s.withAgenda es).cmd = .ok i := hd
    exact (step_unit_busy s es hb ha).trans (completeCommand_of_ok hd')
  · exact (step_nil_busy s hb ha).trans (completeCommand_of_ok hd)
  · exact (step_wait_busy s es hb ha).trans (completeCommand_of_ok hd)

/-- Settles O6: a placed word stands in CMD of a busy unit whose turn is next. -/
theorem fetchedWordRunsNext : Obligations.FetchedWordRunsNext := by
  intro s i
  rw [State.withFetchWord, tableWord_toNat]
  exact (step_unit_busy (presentCommand (encode i) s) s.agenda rfl rfl).trans
    (completeCommand_of_ok (decodeWord_encode i))

/-- A completion step ends with BUSY = 0 and DONE = 1 (R54, R110). -/
theorem completeCommand_finishes (s : State) :
    ∃ t, completeCommand s = .next t ∧ t.status.busy = false ∧ t.status.done = true := by
  obtain ⟨t, ht, ⟨f, rfl⟩ | ⟨_, _, _, _, _, _, _, rfl, _, _⟩⟩ := completeCommand_cases s
  · exact ⟨_, ht, rfl, rfl⟩
  · exact ⟨_, ht, rfl, rfl⟩

/-- Settles O7: the step at each form of the unit's turn is a completion step. -/
theorem startedCommandAlwaysCompletes : Obligations.StartedCommandAlwaysCompletes := by
  rintro s hb (ha | ⟨es, ha⟩ | ⟨es, ha⟩)
  · exact step_nil_busy s hb ha ▸ completeCommand_finishes s
  · exact step_unit_busy s es hb ha ▸ completeCommand_finishes _
  · exact step_wait_busy s es hb ha ▸ completeCommand_finishes s

/-! ### R108: the order of the checks -/

theorem needsHeader_iff (i : Instr) : needsHeader i = true ↔ i = .decrypt ∨ i = .check := by
  cases i <;> decide

/-- Settles O8: an illegal word completes by fault entry; a legal one faults by the first check of `faultCheck` that fires. -/
theorem faultChecksInFixedOrder : Obligations.FaultChecksInFixedOrder := by
  intro s es hb ha
  have hlegal (i : Instr) (hd : decodeWord s.cmd = .ok i) : step s = exec i (s.withAgenda es) :=
    (stepCompletesTheCommandInCmd s i hb hd).1 es ha
  have hlong {i : Instr} (hhead : ¬ ((i = .decrypt ∨ i = .check) ∧ s.ilen.toNat < 12)) (hh : needsHeader i = true) :
      12 ≤ s.ilen.toNat := not_lt.1 fun hlt => hhead ⟨(needsHeader_iff i).1 hh, hlt⟩
  refine ⟨?_, fun i hd hcap => ?_, fun i hd hk hi hhead hlen => ?_, fun i hd hi hhead hk => ?_,
    fun i hd hpos hk hi hhead => ?_⟩
  · rintro ⟨e, he⟩
    have he' : decodeWord (s.withAgenda es).cmd = .error e := he
    exact ⟨_, (step_unit_busy s es hb ha).trans (completeCommand_of_error he'), takeFault_entered _ _⟩
  · exact hlegal i hd ▸ exec_capacity i hcap
  · exact hlegal i hd ▸ exec_malformedMessage ((needsHeader_iff i).2 hhead) hk hlen
  · exact hlegal i hd ▸ exec_faultEntered (faultCheck_invalidKey i (s.withAgenda es) hi (hlong hhead) hk)
  · have hready : Ready i (s.withAgenda es) := ⟨hpos, hk, hi, hlong hhead⟩
    have hexec : exec i (s.withAgenda es) = .next (ownEffect i (s.withAgenda es)) := exec_ready hready
    exact ⟨_, (hlegal i hd).trans hexec, (nothingElseFaults i _ _ hexec).2 hready⟩

end Sys2Proof.Machine

/-! PROOFS. Which moves the host has (`70_reset_and_hazards.md` R124, R132; `20_memory.md` R43, R45): O19, O20, O17. -/

namespace Sys2Proof.Machine

/-- Settles O17: the step is the observation of the byte, and a byte written to KEY or IN is the byte read back. -/
theorem bufferReadHandsBackTheByte : Obligations.BufferReadHandsBackTheByte := by
  intro s sp i es hb hi ha
  have hread : hostAccess (.bufRead sp i) (s.withAgenda es) =
      .next ((s.withAgenda es).observe (.byte sp i ((s.withAgenda es).readBuf sp i))) := if_pos hi
  rw [State.withAgenda_readBuf] at hread
  exact ⟨(step_access_idle ha hb).trans hread, fun v hsp => s.writeBuf_readBuf_same sp i v hsp⟩

/-! ### R124: a busy unit -/

/-- STATUS of a unit that a command start left busy reads as 1. -/
theorem Status.started_toWord : Status.started.toWord = 0x00000001#32 := by decide

/-- Settles O19: the invariant says what STATUS is during BUSY, and any other access is refused. -/
theorem onlyStatusReadsWhileBusy : Obligations.OnlyStatusReadsWhileBusy := by
  intro s a es hinv hb ha
  refine ⟨?_, step_access_busy ha hb⟩
  rintro rfl
  obtain ⟨hstatus, -, -⟩ := hinv.busy_started hb
  have hword : s.status.toWord = 0x00000001#32 := hstatus ▸ Status.started_toWord
  rw [step_host_busy s _ es hb ha, busyLine, pollStatus, State.withAgenda_status, hword]
  rfl

/-! ### Each line is allowed and goes on, or is neither -/

/-- An access to an idle unit goes on when it is within the interface and is refused when it is not (R24, R45). -/
theorem hostAccess_settled (a : HostAccess) (s : State) :
    (a.wellFormed s.params = true ∧ ∃ t, hostAccess a s = .next t) ∨
      (¬ a.wellFormed s.params = true ∧ ∃ r, hostAccess a s = .refused r) := by
  cases a with
  | regRead n =>
    rcases Nat.lt_or_ge 9 n with h | h
    · exact .inr ⟨by simpa [HostAccess.wellFormed] using h, _, hostAccess_regRead_above h⟩
    · obtain ⟨v, hv⟩ := Option.isSome_iff_exists.1 ((s.readReg_isSome n).2 h)
      exact .inl ⟨decide_eq_true h, _, hostAccess_regRead hv⟩
  | regWrite n v =>
    rcases Nat.lt_or_ge 9 n with h | h
    · exact .inr ⟨by simpa [HostAccess.wellFormed] using h, _, hostAccess_regWrite_above v h⟩
    · obtain ⟨t, ht⟩ := Option.isSome_iff_exists.1 ((s.writeReg_isSome n v).2 h)
      exact .inl ⟨decide_eq_true h, _, hostAccess_regWrite ht⟩
  | bufRead sp i =>
    rcases Nat.lt_or_ge i (s.params.capacity sp) with h | h
    · exact .inl ⟨decide_eq_true h, _, if_pos h⟩
    · exact .inr ⟨by simpa [HostAccess.wellFormed] using h, _, hostAccess_bufRead_outside h⟩
  | bufWrite sp i v =>
    rcases Nat.lt_or_ge i (s.params.capacity sp) with h | h
    · exact .inl ⟨decide_eq_true h, _, hostAccess_bufWrite v h⟩
    · exact .inr ⟨by simpa [HostAccess.wellFormed] using h, _, hostAccess_bufWrite_outside v h⟩

section Line
variable {s : State} {l : ScriptLine} {es : List Event} (ha : s.agenda = .host l :: es)
include ha

theorem idleLine_settled (hb : s.status.busy = false) :
    (AllowedNext s ∧ ∃ t, idleLine l (s.withAgenda es) = .next t) ∨
      (¬ AllowedNext s ∧ ∃ r, idleLine l (s.withAgenda es) = .refused r) := by
  simp only [AllowedNext, ha, hb]
  cases l with
  | access a => exact hostAccess_settled a (s.withAgenda es)
  | mov =>
    rcases Nat.lt_or_ge s.params.inMax s.olen.toNat with h | h
    · exact .inr ⟨Nat.not_le.2 h, _, if_neg (Nat.not_le.2 h)⟩
    · exact .inl ⟨h, _, if_pos h⟩
  | wait | key | msg | ops | run | out => exact .inl ⟨trivial, _, rfl⟩

theorem busyLine_settled (hb : s.status.busy = true) :
    (AllowedNext s ∧ ∃ t, busyLine l (s.withAgenda es) = .next t) ∨
      (¬ AllowedNext s ∧ ∃ r, busyLine l (s.withAgenda es) = .refused r) := by
  simp only [AllowedNext, ha, hb]
  cases l with
  | access a =>
    by_cases hstatus : a = .regRead 1
    · subst hstatus
      exact .inl ⟨rfl, _, rfl⟩
    · refine .inr ⟨?_, _, busyLine_access hstatus _⟩
      cases a with
      | regRead n => exact fun (hn : n = 1) => hstatus (hn ▸ rfl)
      | regWrite | bufRead | bufWrite => exact id
  | wait polls =>
    cases polls with
    | zero =>
      obtain ⟨t, ht, -⟩ := completeCommand_cases ((s.withAgenda es).withAgenda (.host (.wait 0) :: es))
      exact .inl ⟨trivial, t, ht⟩
    | succ k => exact .inl ⟨trivial, _, rfl⟩
  | key | msg | ops | run | out | mov => exact .inr ⟨id, _, rfl⟩

end Line

/-- The unit's turn goes on, busy or idle. -/
theorem unitTurn_next (s : State) : ∃ t, unitTurn s = .next t := by
  unfold unitTurn
  split
  · obtain ⟨t, ht, -⟩ := completeCommand_cases s
    exact ⟨t, ht⟩
  · exact ⟨s, rfl⟩

/-- A step goes on or is refused, by whether the next event is a move the host has. -/
theorem step_settled (s : State) :
    (AllowedNext s ∧ ∃ t, step s = .next t) ∨ (¬ AllowedNext s ∧ ∃ r, step s = .refused r) := by
  cases ha : s.agenda with
  | nil => exact .inl ⟨by simp only [AllowedNext, ha], by simpa only [step, nextEvent, ha] using unitTurn_next s⟩
  | cons e es =>
    cases e with
    | unit => exact .inl ⟨by simp only [AllowedNext, ha], by simpa only [step, nextEvent, ha] using unitTurn_next _⟩
    | reset => exact .inl ⟨by simp only [AllowedNext, ha], _, step_reset s es ha⟩
    | host l =>
      cases hb : s.status.busy with
      | true => exact step_host_busy s l es hb ha ▸ busyLine_settled ha hb
      | false => exact step_host_idle s l es hb ha ▸ idleLine_settled ha hb

/-- Settles O20: of the two cases of a step, the allowed one goes on and the other is refused. -/
theorem onlyForbiddenMovesAreRefused : Obligations.OnlyForbiddenMovesAreRefused := by
  intro s
  rcases step_settled s with ⟨hallowed, hnext⟩ | ⟨hforbidden, hrefused⟩
  · exact ⟨fun _ => hnext, fun h => absurd hallowed h⟩
  · exact ⟨fun h => absurd h hforbidden, fun _ => hrefused⟩

end Sys2Proof.Machine

/-! PROOFS. Arithmetic, the header bytes and the register words (`00_scope.md` R8, `43_check.md` R91, `10_state.md` R14,
R22): O21, O23, O11, O15. -/

namespace Sys2Proof.Machine

/-! ### R8: the primitives as numbers -/

theorem add8_toNat (x k : Byte) : (add8 x k).toNat = (x.toNat + k.toNat) % 256 :=
  BitVec.toNat_add x k

theorem sub8_toNat (x k : Byte) : (sub8 x k).toNat = (x.toNat + 256 - k.toNat) % 256 := by
  have hk : k.toNat < 256 := k.isLt
  rw [sub8, BitVec.toNat_sub]
  omega

theorem le32_toNat (w : Word) : (le32 w).map BitVec.toNat =
    [w.toNat % 256, w.toNat / 256 % 256, w.toNat / 65536 % 256, w.toNat / 16777216] := by
  have hw : w.toNat < 2 ^ 32 := w.isLt
  simp [le32, Nat.shiftRight_eq_div_pow]
  omega

/-- The sum does not wrap: four bytes fill a word. -/
theorem unle32_toNat (b0 b1 b2 b3 : Byte) :
    (unle32 b0 b1 b2 b3).toNat = b0.toNat + 256 * b1.toNat + 65536 * b2.toNat + 16777216 * b3.toNat := by
  have h0 : b0.toNat < 256 := b0.isLt
  have h1 : b1.toNat < 256 := b1.isLt
  have h2 : b2.toNat < 256 := b2.isLt
  have h3 : b3.toNat < 256 := b3.isLt
  simp [unle32]
  omega

/-- The bytes of a word put together again are the word. -/
theorem unle32_extractLsb' (w : Word) :
    unle32 (w.extractLsb' 0 8) (w.extractLsb' 8 8) (w.extractLsb' 16 8) (w.extractLsb' 24 8) = w := by
  have hw : w.toNat < 2 ^ 32 := w.isLt
  rw [← BitVec.toNat_inj, unle32_toNat]
  simp only [BitVec.extractLsb'_toNat, Nat.shiftRight_eq_div_pow]
  omega

/-- A byte sequence is determined by its bytes as numbers. -/
theorem bytes_eq_of_map_toNat_eq {xs ys : List Byte} (h : xs.map BitVec.toNat = ys.map BitVec.toNat) : xs = ys :=
  List.map_injective_iff.2 (fun _ _ => BitVec.eq_of_toNat_eq) h

theorem le32_unle32 (b0 b1 b2 b3 : Byte) : le32 (unle32 b0 b1 b2 b3) = [b0, b1, b2, b3] := by
  have h0 : b0.toNat < 256 := b0.isLt
  have h1 : b1.toNat < 256 := b1.isLt
  have h2 : b2.toNat < 256 := b2.isLt
  have h3 : b3.toNat < 256 := b3.isLt
  refine bytes_eq_of_map_toNat_eq ?_
  rw [le32_toNat, unle32_toNat]
  simp only [List.map_cons, List.map_nil, List.cons.injEq, and_true]
  omega

/-- Settles O21: each primitive as a number; `le32` and `unle32` undo each other. -/
theorem arithmeticPrimitives : Obligations.ArithmeticPrimitives :=
  ⟨fun x k => ⟨add8_toNat x k, sub8_toNat x k⟩, BitVec.toNat_mul, le32_toNat, unle32_toNat,
    fun w => ⟨_, _, _, _, rfl, unle32_extractLsb' w⟩, le32_unle32⟩

/-! ### R91: parsing a built header -/

/-- Parsing undoes laying out, word by word. -/
theorem parseHeader_bytes (h : Header) : parseHeader h.bytes = h := by
  have ha := unle32_extractLsb' h.a
  have hb := unle32_extractLsb' h.b
  have hc := unle32_extractLsb' h.c
  cases h
  exact congr (congr (congrArg Header.mk ha) hb) hc

theorem buildHeader_length (a b : Half) : (buildHeader a b).length = 12 :=
  Header.bytes_length _

/-- Settles O23: `BuildHeader` is the layout of `headerOf`. -/
theorem parsedBuiltHeaderIsItself : Obligations.ParsedBuiltHeaderIsItself := fun a b =>
  ⟨buildHeader_length a b, parseHeader_bytes (headerOf a b)⟩

/-! ### R14, R18: STATUS -/

/-- The register bit by bit: the four low fields, then ERR, whose bits from 4 on are 0. -/
theorem Status.toWord_getLsbD (st : Status) (n : Nat) : st.toWord.getLsbD n =
    if n < 4 then [st.busy, st.done, st.valid, false].getD n false else st.errField.getLsbD (n - 4) := by
  have happend : st.toWord.getLsbD n = BitVec.getLsbD (w := 24 + 4 + 1 + 1 + 1 + 1)
    (0#24 ++ st.errField ++ 0#1 ++ BitVec.ofBool st.valid ++ BitVec.ofBool st.done ++ BitVec.ofBool st.busy) n := rfl
  rw [happend]
  simp only [BitVec.getLsbD_append]
  match n with
  | 0 | 1 | 2 | 3 => simp
  | n + 4 => simpa using BitVec.lt_of_getLsbD

theorem Status.toWord_extractLsb'_err (st : Status) : st.toWord.extractLsb' 4 4 = st.errField := by
  refine BitVec.eq_of_getLsbD_eq fun n hn => ?_
  simp [st.toWord_getLsbD, hn]

theorem Status.toWord_getLsbD_high (st : Status) {n : Nat} (hn : 8 ≤ n) : st.toWord.getLsbD n = false := by
  rw [st.toWord_getLsbD, if_neg (by omega)]
  exact BitVec.getLsbD_of_ge _ _ (by omega)

/-- No fault has code 0, and no two have the same code (R18). -/
theorem Status.err_eq_none_iff (st : Status) : st.err = none ↔ st.errField = 0#4 := by
  unfold Status.errField
  cases st.err with
  | none => decide
  | some f => cases f <;> decide

theorem Status.err_eq_some_iff (st : Status) (f : FaultCode) : st.err = some f ↔ st.errField = f.code := by
  unfold Status.errField
  cases st.err with
  | none => cases f <;> decide
  | some g => cases f <;> cases g <;> decide

/-- Settles O11: the low bits one by one, the ERR bits as the field's code. -/
theorem statusWordLayout : Obligations.StatusWordLayout := by
  intro st
  rw [Status.toWord_extractLsb'_err]
  exact ⟨st.toWord_getLsbD 0, st.toWord_getLsbD 1, st.toWord_getLsbD 2, st.toWord_getLsbD 3,
    fun _ => st.toWord_getLsbD_high, st.err_eq_none_iff, st.err_eq_some_iff .invalidKey,
    st.err_eq_some_iff .malformedMessage, st.err_eq_some_iff .illegalCommand, st.err_eq_some_iff .capacity⟩

/-! ### R22: the operand registers -/

/-- Keeping 16 bits and extending them with zeros clears bits 31:16. -/
theorem setWidth_half_setWidth (v : Word) : (v.setWidth 16).setWidth 32 = v &&& 0x0000FFFF#32 := by
  have hmask : v.toNat &&& 65535 = v.toNat % 65536 := Nat.and_two_pow_sub_one_eq_mod v.toNat 16
  refine BitVec.eq_of_toNat_eq ?_
  simp [hmask]
  omega

/-- Settles O15: both registers keep the low half and read it back zero-extended. -/
theorem operandRegistersHoldSixteenBits : Obligations.OperandRegistersHoldSixteenBits := fun _ v =>
  ⟨congrArg some (setWidth_half_setWidth v), congrArg some (setWidth_half_setWidth v)⟩

end Sys2Proof.Machine

/-! PROOFS. The transform and the datapath (`40_transform.md` R67, R75, R76; `10_state.md` R29): O25, O26, O27. -/

namespace Sys2Proof.Machine

/-! ### R75: the laws of the transform -/

/-- The key index of the transform is an index of the password. -/
theorem getElem?_mod_length {key : List Byte} (hkey : key ≠ []) (i : Nat) :
    key[i % key.length]? = some (key.getD (i % key.length) 0) := by
  have hlt : i % key.length < key.length := Nat.mod_lt _ (List.length_pos_iff.2 hkey)
  rw [List.getD_eq_getElem _ _ hlt, List.getElem?_eq_getElem hlt]

theorem shift_take (dir : Direction) (buf key : List Byte) (n : Nat) :
    (shift dir buf key).take n = shift dir (buf.take n) key := by
  refine List.ext_getElem? fun i => ?_
  simp only [shift_getElem?, List.getElem?_take]
  split
  · rfl
  · rfl

theorem shift_drop_getElem? (dir : Direction) {buf key : List Byte} {n j : Nat} {x k : Byte}
    (hx : buf[n + j]? = some x) (hk : key[(n + j) % key.length]? = some k) :
    ((shift dir buf key).drop n)[j]? = some (dir.apply x k) := by
  rw [List.getElem?_drop, shift_getElem?, hx, List.getD_eq_getElem?_getD, hk]
  rfl

@[simp] theorem Direction.apply_zero (dir : Direction) (x : Byte) : dir.apply x 0 = x := by
  cases dir with
  | enc => exact BitVec.add_zero x
  | dec => exact BitVec.sub_zero x

theorem Direction.apply_right_injective (dir : Direction) (x : Byte) : Function.Injective (dir.apply x) := by
  intro k l h
  cases dir with
  | enc => exact (BitVec.add_right_inj x).1 h
  | dec => exact (BitVec.sub_right_inj x).1 h

/-- Transforms of one sequence agree where the password bytes at each of its positions do. -/
theorem shift_congr (dir : Direction) {buf key key' : List Byte}
    (h : ∀ i, i < buf.length → key.getD (i % key.length) 0 = key'.getD (i % key'.length) 0) :
    shift dir buf key = shift dir buf key' := by
  refine List.ext_getElem? fun i => ?_
  rw [shift_getElem?, shift_getElem?]
  rcases Nat.lt_or_ge i buf.length with hi | hi
  · rw [h i hi]
  · rw [List.getElem?_eq_none hi]
    rfl

theorem shift_zero_key (dir : Direction) (buf : List Byte) {key : List Byte} (h : ∀ k ∈ key, k = 0) :
    shift dir buf key = buf := by
  have hzero (i : Nat) : key.getD i 0 = 0 := by
    rcases Nat.lt_or_ge i key.length with hi | hi
    · rw [List.getD_eq_getElem _ _ hi]
      exact h _ (List.getElem_mem hi)
    · exact List.getD_eq_default _ _ hi
  refine List.ext_getElem? fun i => ?_
  simp only [shift_getElem?, hzero, Direction.apply_zero, Option.map_id']

/-- Subtracting a password byte is adding its negation modulo 256. -/
theorem shift_dec_eq_enc_negated (buf key : List Byte) :
    shift .dec buf key = shift .enc buf (key.map fun k => sub8 0 k) := by
  have hneg (x k : Byte) : Direction.dec.apply x k = Direction.enc.apply x (sub8 0 k) := by
    simp [Direction.apply, sub8, add8, BitVec.sub_eq_add_neg]
  refine List.ext_getElem? fun i => ?_
  have hget : (key.map fun k => sub8 0 k).getD (i % key.length) 0 = sub8 0 (key.getD (i % key.length) 0) :=
    List.getD_map key 0 (sub8 0)
  rw [shift_getElem?, shift_getElem?, List.length_map, hget]
  simp only [hneg]

/-- Two passwords are the same transform on every sequence of a length exactly when they agree at every position of it;
one sequence decides, since a byte step tells two password bytes apart. -/
theorem shift_eq_shift_iff (dir : Direction) {key key' : List Byte} (hkey : key ≠ []) (hkey' : key' ≠ []) (n : Nat) :
    (∀ buf : List Byte, buf.length = n → shift dir buf key = shift dir buf key') ↔
      ∀ i, i < n → key[i % key.length]? = key'[i % key'.length]? := by
  simp only [getElem?_mod_length hkey, getElem?_mod_length hkey', Option.some.injEq]
  constructor
  · intro h i hi
    have heq := congrArg (·[i]?) (h (List.replicate n 0) List.length_replicate)
    simp only [shift_getElem?, List.getElem?_replicate, if_pos hi, Option.map_some, Option.some.injEq] at heq
    exact dir.apply_right_injective 0 heq
  · rintro h buf rfl
    exact shift_congr dir h

/-- Settles O25: law by law. -/
theorem shiftLaws : Obligations.ShiftLaws := fun dir buf key hkey =>
  ⟨shift_size dir buf key, fun n _ => shift_take dir buf key n, fun _ _ _ _ _ hx hk => shift_drop_getElem? dir hx hk,
    shift_zero_key dir buf, shift_dec_eq_enc_negated buf key, fun _ hkey2 => shift_eq_shift_iff dir hkey hkey2⟩

/-! ### R76: the byte steps compute the transform -/

theorem State.password_getD (s : State) {i : Nat} (hi : i < s.klen.toNat) : s.password.getD i 0 = s.readBuf .key i := by
  rw [List.getD_eq_getElem?_getD, State.password_getElem?, if_pos hi]
  rfl

theorem transform_clear_eq_shift (dir : Direction) (xs : List Byte) {s : State} (hk : 1 ≤ s.klen.toNat) :
    (transform dir xs s.clearCounters).1 = shift dir xs s.password := by
  refine List.ext_getElem? fun i => ?_
  rw [transform_clear_getElem? dir xs s hk, shift_getElem?, State.password_length, s.password_getD (Nat.mod_lt _ hk)]

/-- Settles O26: the bytes of the closed form and the counters at the end. -/
theorem datapathComputesShift : Obligations.DatapathComputesShift := fun dir src s hk =>
  Prod.ext (transform_clear_eq_shift dir src hk) (transform_clear_state dir src s hk)

/-- One byte on, KIDX is the new POS modulo KLEN (R29). -/
theorem advance_eq_of_kidx {s : State} (hk : 1 ≤ s.klen.toNat) (h : s.kidx = s.pos % s.klen.toNat) :
    s.advance = { s with pos := s.pos + 1, kidx := (s.pos + 1) % s.klen.toNat } := by
  have hlt : s.kidx < s.klen.toNat := h ▸ Nat.mod_lt _ hk
  rw [State.advance, wrap_succ _ _ hlt, h, Nat.mod_add_mod]

/-- Settles O27: the byte step reads `KEY[KIDX]` and advances. -/
theorem keyIndexIsPositionModKlen : Obligations.KeyIndexIsPositionModKlen := by
  intro dir x s hk h
  exact ⟨by rw [byteStep, h], advance_eq_of_kidx hk h⟩

end Sys2Proof.Machine

/-! PROOFS. The results of the five commands in closed form and their counters (`40_transform.md` R70, R71, `41_encrypt.md`
R78 to R83, `42_decrypt.md` R85, `43_check.md` R97; `10_state.md` R29): O35, O36, O37, O38, O39. -/

namespace Sys2Proof.Machine

/-! ### How many bytes the datapath runs over -/

/-- Where POS ends (R29, R47, R94); `ownEffect_counters` ties it to the commands. -/
def bytesRun (i : Instr) (s : State) : Nat :=
  match i with
  | .shiftEnc | .shiftDec | .decrypt => s.ilen.toNat
  | .encrypt => s.ilen.toNat + 12
  | .check => if checksumOk (checkedHeader s) then s.ilen.toNat else 12

theorem ownEffect_counters {i : Instr} {s : State} (h : Ready i s) :
    (ownEffect i s).pos = bytesRun i s ∧ (ownEffect i s).kidx = bytesRun i s % s.klen.toNat := by
  have hk : 1 ≤ s.klen.toNat := h.klen_pos
  cases i with
  | shiftEnc => rw [ownEffect, shiftInput_eq .enc s hk]; exact ⟨rfl, rfl⟩
  | shiftDec => rw [ownEffect, shiftInput_eq .dec s hk]; exact ⟨rfl, rfl⟩
  | encrypt => rw [ownEffect, encryptInput_eq s hk]; exact ⟨rfl, rfl⟩
  | decrypt => rw [ownEffect, decryptInput_eq s hk]; exact ⟨rfl, rfl⟩
  | check =>
    cases hc : checksumOk (checkedHeader s) with
    | false => rw [ownEffect, checkInput_bad s hk hc, bytesRun, hc]; exact ⟨rfl, rfl⟩
    | true => rw [ownEffect, checkInput_good s hk (h.has_header rfl) hc, bytesRun, hc]; exact ⟨rfl, rfl⟩

/-- VALID of a CHECK without a fault is its checksum (R93). -/
theorem checkInput_valid {s : State} (h : Ready .check s) :
    (checkInput s).status.valid = checksumOk (checkedHeader s) := by
  cases hc : checksumOk (checkedHeader s) with
  | false => exact (checkInput_rejects h.klen_pos hc).1.valid_eq
  | true => exact (checkInput_accepts h hc).1.valid_eq

/-- Settles O35: POS is the number of bytes run over, which for CHECK depends on VALID. -/
theorem countersAfterCommand : Obligations.CountersAfterCommand := by
  intro i s t h ht
  cases (exec_ready h).symm.trans ht
  obtain ⟨hpos, hkidx⟩ := ownEffect_counters h
  refine ⟨by rw [hkidx, hpos], ?_, ?_, ?_⟩
  · rintro (rfl | rfl | rfl) <;> exact hpos
  · rintro rfl
    exact hpos
  · rintro rfl
    rw [hpos, ownEffect, checkInput_valid h]
    rfl

/-! ### The results in closed form -/

section Result
variable {s : State}

theorem shiftInput_result (hk : 1 ≤ s.klen.toNat) (dir : Direction) :
    (shiftInput dir s).result = shift dir s.input s.password := by
  rw [shiftInput_eq dir s hk, transform_clear_eq_shift dir _ hk, deliver_result]
  simpa using s.ilen.isLt

theorem encryptInput_result (h : Ready .encrypt s) :
    (encryptInput s).result = shift .enc s.preCipher s.password := by
  rw [encryptInput_eq s h.klen_pos, transform_clear_eq_shift .enc _ h.klen_pos, deliver_result]
  rw [shift_size, State.preCipher_length]
  exact (Nat.add_le_add_right h.ilen_le 12).trans_lt s.params.outMax_lt

theorem decryptInput_result (hk : 1 ≤ s.klen.toNat) :
    (decryptInput s).result = (shift .dec s.input s.password).drop 12 := by
  rw [decryptInput_eq s hk, transform_clear_eq_shift .dec _ hk, deliver_result, hdrLen]
  rw [List.length_drop, shift_size, State.input_length]
  exact (Nat.sub_le _ _).trans_lt s.ilen.isLt

/-- Byte `i` of the decoded message (R67). -/
theorem shift_dec_input_getElem? (hk : 1 ≤ s.klen.toNat) {i : Nat} (hi : i < s.ilen.toNat) :
    (shift .dec s.input s.password)[i]? = some (s.decodedByte i) := by
  rw [shift_getElem?, State.input_getElem?, if_pos hi, State.password_length, s.password_getD (Nat.mod_lt _ hk)]
  rfl

/-- An accepting CHECK delivers the tail of the decoded message: the password cycle goes on over the header (R94, R97). -/
theorem checkInput_result (h : Ready .check s) (hc : checksumOk (checkedHeader s) = true) :
    (checkInput s).result = (shift .dec s.input s.password).drop 12 := by
  have holen := checkInput_olen_toNat h.klen_pos (h.has_header rfl) hc
  refine List.ext_getElem (by simp [holen]) fun j hj _ => ?_
  rw [State.result_length, holen] at hj
  have hlt : 12 + j < s.ilen.toNat := Nat.add_lt_of_lt_sub' hj
  rw [State.result_getElem, checkInput_readBuf_out h.klen_pos (h.has_header rfl) hc hlt, eq_comm, List.getElem_eq_iff,
    List.getElem?_drop, shift_dec_input_getElem? h.klen_pos hlt]

end Result

/-- Settles O36: command by command. -/
theorem resultsAreTheClosedForm : Obligations.ResultsAreTheClosedForm := by
  intro i s t h ht
  cases (exec_ready h).symm.trans ht
  refine ⟨?_, ?_, ?_, ?_, ?_⟩ <;> rintro rfl
  · exact shiftInput_result h.klen_pos .enc
  · exact shiftInput_result h.klen_pos .dec
  · exact encryptInput_result h
  · exact decryptInput_result h.klen_pos
  · exact fun hvalid => checkInput_result h ((checkInput_valid h).symm.trans hvalid)

/-! ### R82: the header of an ENCRYPT output -/

/-- Settles O37: the first 12 bytes are the built header transformed, so decoding and parsing give it back. -/
theorem encryptedHeaderDecodesToOperands : Obligations.EncryptedHeaderDecodesToOperands := by
  intro s t h ht
  cases (exec_encrypt_ready s h).symm.trans ht
  have htake : s.preCipher.take 12 = s.builtHeader.bytes := List.take_left' (Header.bytes_length _)
  have hdec : shift .dec ((encryptInput s).result.take 12) s.password = s.builtHeader.bytes := by
    rw [encryptInput_result h, shift_take, htake]
    exact shift_opposite_shift .enc _ _
  have hparse : parseHeader (shift .dec ((encryptInput s).result.take 12) s.password) = headerOf s.opa s.opb := by
    rw [hdec, parseHeader_bytes]
    rfl
  obtain ⟨hc, -, ha, hb, -⟩ := headerProductIsExact s.opa s.opb
  rw [hparse]
  exact ⟨ha, hb, hc⟩

/-! ### R80: what the bytes of an ENCRYPT output depend on -/

/-- Settles O38: a payload byte is its plaintext byte and a password byte, a header byte an operand byte and a password
byte. -/
theorem payloadIgnoresOperands : Obligations.PayloadIgnoresOperands := by
  intro s u s' u' hs hu hklen hkey hs' hu'
  cases (exec_encrypt_ready s hs).symm.trans hs'
  cases (exec_encrypt_ready u hu).symm.trans hu'
  have hkey' (n : Nat) : u.readBuf .key (n % u.klen.toNat) = s.readBuf .key (n % s.klen.toNat) := by
    rw [hklen, hkey _ (Nat.mod_lt _ hs.klen_pos)]
  refine ⟨fun j hjs hju hinp => ?_, fun hopa hopb i hi => ?_⟩
  · rw [encryptInput_readBuf_payload hs.klen_pos hjs, encryptInput_readBuf_payload hu.klen_pos hju, hinp, hkey']
  · obtain ⟨x, hx, hxout⟩ := encryptInput_readBuf_header hs.klen_pos hi
    have hux : u.builtHeader.bytes[i]? = some x := by rw [State.builtHeader, hopa, hopb]; exact hx
    rw [hxout, encryptInput_readBuf_out hu.klen_pos ((u.preCipher_getElem?_header hi).trans hux), hkey']

/-! ### R83: password bytes in clear -/

/-- The upper half of a zero-extended operand is 0. -/
theorem Half.setWidth_extractLsb'_high (a : Half) :
    (a.setWidth 32).extractLsb' 16 8 = 0 ∧ (a.setWidth 32).extractLsb' 24 8 = 0 := by
  have ha : a.toNat < 2 ^ 16 := a.isLt
  constructor <;> refine BitVec.eq_of_toNat_eq ?_ <;> simp [Nat.shiftRight_eq_div_pow] <;> omega

theorem headerOf_bytes_high (a b : Half) {i : Nat} (hi : i = 2 ∨ i = 3 ∨ i = 6 ∨ i = 7) :
    (headerOf a b).bytes[i]? = some 0 := by
  obtain ⟨ha2, ha3⟩ := Half.setWidth_extractLsb'_high a
  obtain ⟨hb2, hb3⟩ := Half.setWidth_extractLsb'_high b
  rcases hi with rfl | rfl | rfl | rfl
  · exact congrArg some ha2
  · exact congrArg some ha3
  · exact congrArg some hb2
  · exact congrArg some hb3

theorem headerOf_zero_bytes : (headerOf 0 0).bytes = List.replicate 12 0 := by decide

/-- Where the header byte is 0, the output is the password byte. -/
theorem encryptInput_readBuf_of_header_zero {s : State} (hk : 1 ≤ s.klen.toNat) {i : Nat} (hi : i < 12)
    (hzero : (headerOf s.opa s.opb).bytes[i]? = some 0) :
    (encryptInput s).readBuf .out i = s.readBuf .key (i % s.klen.toNat) := by
  rw [encryptInput_readBuf_out hk ((s.preCipher_getElem?_header hi).trans hzero)]
  exact BitVec.zero_add _

/-- Settles O39: the four header bytes are 0 for every operand, and with both operands 0 all twelve are. -/
theorem headerShowsPasswordBytes : Obligations.HeaderShowsPasswordBytes := by
  intro s t h ht
  cases (exec_encrypt_ready s h).symm.trans ht
  refine ⟨fun i hi => ?_, fun hopa hopb i hi => ?_⟩
  · exact encryptInput_readBuf_of_header_zero h.klen_pos (by omega) (headerOf_bytes_high _ _ hi)
  · refine encryptInput_readBuf_of_header_zero h.klen_pos hi ?_
    rw [hopa, hopb, headerOf_zero_bytes, List.getElem?_replicate, if_pos hi]

end Sys2Proof.Machine

/-! PROOFS. ENCRYPT and then DECRYPT or CHECK, and what CHECK depends on (`42_decrypt.md` R88, R89, `43_check.md` R98 to
R101): O40, O41, O42, O43, O44, O45. -/

namespace Sys2Proof.Machine

/-! ### R88, R99: the moved result of an ENCRYPT -/

section EncryptMoved
variable {s u : State} (h : Ready .encrypt s) (hmove : ResultMovedToInput (encryptInput s) u)
include h hmove

theorem klen_of_encrypt_moved : u.klen = s.klen :=
  hmove.klen.trans (encryptInput_frame h).inputs.klen

theorem ilen_of_encrypt_moved : u.ilen.toNat = s.ilen.toNat + 12 := by
  rw [hmove.ilen, encryptInput_olen_toNat h]

theorem ready_of_encrypt_moved (hfit : s.ilen.toNat ≤ s.params.inMax - 12) (i : Instr) : Ready i u where
  klen_pos := klen_of_encrypt_moved h hmove ▸ h.klen_pos
  klen_le := by
    rw [klen_of_encrypt_moved h hmove, hmove.params, (encryptInput_frame h).inputs.params]
    exact h.klen_le
  ilen_le := by
    rw [ilen_of_encrypt_moved h hmove, hmove.params, (encryptInput_frame h).inputs.params]
    exact Nat.add_le_of_le_sub s.params.inMax_ge hfit
  has_header _ := by
    rw [ilen_of_encrypt_moved h hmove]
    exact Nat.le_add_left 12 _

/-- The moved message decodes byte by byte to what ENCRYPT ran over. -/
theorem decodedByte_of_encrypt_moved {n : Nat} {x : Byte} (hx : s.preCipher[n]? = some x) : u.decodedByte n = x := by
  have hframe : SameInput s (encryptInput s) := (encryptInput_frame h).inputs
  have hn : n < (encryptInput s).olen.toNat := by
    rw [encryptInput_olen_toNat h, ← State.preCipher_length]
    exact (List.getElem?_eq_some_iff.1 hx).1
  have hmod : n % s.klen.toNat < (encryptInput s).klen.toNat := by
    rw [hframe.klen]
    exact Nat.mod_lt _ h.klen_pos
  have hkey : u.readBuf .key (n % s.klen.toNat) = s.readBuf .key (n % s.klen.toNat) := by
    rw [hmove.key _ hmod, hframe.key]
  rw [State.decodedByte, klen_of_encrypt_moved h hmove, hkey, hmove.inp n hn, encryptInput_readBuf_out h.klen_pos hx]
  exact Direction.opposite_apply_apply .enc x _

/-- CHECK of the moved message parses the built header. -/
theorem checkedHeader_of_encrypt_moved : checkedHeader u = s.builtHeader := by
  have hbytes (i : Nat) (hi : i < 12) : s.builtHeader.bytes[i]? = some (u.decodedByte i) := by
    have hx : s.builtHeader.bytes[i]? = some s.builtHeader.bytes[i] := List.getElem?_eq_getElem hi
    rw [hx, decodedByte_of_encrypt_moved h hmove ((s.preCipher_getElem?_header hi).trans hx)]
  rw [checkedHeader_eq (klen_of_encrypt_moved h hmove ▸ h.klen_pos), ← parseHeader_eq_headerOfBytes hbytes,
    parseHeader_bytes]

end EncryptMoved

/-- Settles O40: DECRYPT is ready, and byte `12 + j` of the message decodes to plaintext byte `j`. -/
theorem encryptThenDecryptRoundTrip : Obligations.EncryptThenDecryptRoundTrip := by
  intro s t u h hfit ht hmove
  cases (exec_encrypt_ready s h).symm.trans ht
  have hu : Ready .decrypt u := ready_of_encrypt_moved h hmove hfit .decrypt
  have hilen : u.ilen.toNat = s.ilen.toNat + 12 := ilen_of_encrypt_moved h hmove
  refine ⟨decryptInput u, exec_decrypt_ready u hu, (decryptInput_completed u).err, ?_, fun j hj => ?_⟩
  · refine BitVec.eq_of_toNat_eq ?_
    rw [decryptInput_olen_toNat hu.klen_pos, hilen, Nat.add_sub_cancel]
  · rw [decryptInput_readBuf_out hu.klen_pos (by omega)]
    exact decodedByte_of_encrypt_moved h hmove (s.preCipher_getElem?_payload hj)

/-- Settles O41: the parsed header is the built one, whose checksum holds, so CHECK delivers the decoded payload. -/
theorem encryptThenCheckAccepts : Obligations.EncryptThenCheckAccepts := by
  intro s t u h hfit ht hmove
  cases (exec_encrypt_ready s h).symm.trans ht
  have hu : Ready .check u := ready_of_encrypt_moved h hmove hfit .check
  have hilen : u.ilen.toNat = s.ilen.toNat + 12 := ilen_of_encrypt_moved h hmove
  have hhead : checkedHeader u = headerOf s.opa s.opb := checkedHeader_of_encrypt_moved h hmove
  have hok : checksumOk (checkedHeader u) = true := hhead ▸ checksumOk_headerOf s.opa s.opb
  obtain ⟨hcomplete, holen, hout⟩ := checkInput_accepts hu hok
  obtain ⟨hha, hhb, hhc⟩ := checkInput_header_words hu.klen_pos (hu.has_header rfl)
  obtain ⟨hc, -, ha, hb, -⟩ := headerProductIsExact s.opa s.opb
  rw [hhead] at hha hhb hhc
  refine ⟨checkInput u, exec_check_ready u hu, hcomplete.err, hcomplete.valid_eq, hha ▸ ha, hhb ▸ hb, hhc ▸ hc, ?_,
    fun j hj => ?_⟩
  · refine BitVec.eq_of_toNat_eq ?_
    rw [holen, hilen, Nat.add_sub_cancel]
  · have hbyte := hout (12 + j) (Nat.le_add_right 12 j) (by omega)
    rw [Nat.add_sub_cancel_left] at hbyte
    exact hbyte.trans (decodedByte_of_encrypt_moved h hmove (s.preCipher_getElem?_payload hj))

/-! ### R89: CHECK against DECRYPT -/

/-- CHECK and DECRYPT have the same precondition (R104). -/
theorem Ready.decrypt_of_check {s : State} (h : Ready .check s) : Ready .decrypt s :=
  ⟨h.klen_pos, h.klen_le, h.ilen_le, fun _ => h.has_header rfl⟩

/-- Settles O42: by the checksum; where it holds, both commands deliver the decoded bytes from 12 on. -/
theorem validCheckAgreesWithDecrypt : Obligations.ValidCheckAgreesWithDecrypt := by
  intro s t u h ht hu
  cases (exec_check_ready s h).symm.trans ht
  cases (exec_decrypt_ready s h.decrypt_of_check).symm.trans hu
  have hdec : (decryptInput s).olen.toNat = s.ilen.toNat - 12 := decryptInput_olen_toNat h.klen_pos
  refine ⟨fun hvalid => ?_, fun hvalid => ?_, rfl, rfl, rfl, rfl⟩
  · have hok := (checkInput_valid h).symm.trans hvalid
    have holen := checkInput_olen_toNat h.klen_pos (h.has_header rfl) hok
    refine ⟨BitVec.eq_of_toNat_eq (holen.trans hdec.symm), fun j hj => ?_⟩
    have hlt : 12 + j < s.ilen.toNat := Nat.add_lt_of_lt_sub' (holen ▸ hj)
    rw [checkInput_readBuf_out h.klen_pos (h.has_header rfl) hok hlt, decryptInput_readBuf_out h.klen_pos hlt]
    rfl
  · have hbad := (checkInput_valid h).symm.trans hvalid
    exact ⟨(checkInput_rejects h.klen_pos hbad).2, hdec⟩

/-! ### R101: what CHECK depends on -/

theorem headerOfBytes_congr {f g : Nat → Byte} (h : ∀ i, i < 12 → f i = g i) : headerOfBytes f = headerOfBytes g := by
  simp [headerOfBytes, h]

/-- With one password, decoded bytes agree exactly where the input bytes do. -/
theorem decodedByte_eq_iff {s u : State} (hk : 1 ≤ s.klen.toNat) (hklen : u.klen = s.klen)
    (hkey : ∀ i, i < s.klen.toNat → u.readBuf .key i = s.readBuf .key i) (i : Nat) :
    u.decodedByte i = s.decodedByte i ↔ u.readBuf .inp i = s.readBuf .inp i := by
  rw [State.decodedByte, State.decodedByte, hklen, hkey _ (Nat.mod_lt _ hk)]
  exact BitVec.sub_left_inj _

/-- All that CHECK leaves but the payload is decided by the parsed header and ILEN. -/
theorem checkInput_registers_eq {s u : State} (hs : Ready .check s) (hu : Ready .check u) (hilen : u.ilen = s.ilen)
    (hhead : checkedHeader u = checkedHeader s) :
    (checkInput u).status = (checkInput s).status ∧ (checkInput u).olen = (checkInput s).olen ∧
      (checkInput u).ha = (checkInput s).ha ∧ (checkInput u).hb = (checkInput s).hb ∧
      (checkInput u).hc = (checkInput s).hc := by
  cases hc : checksumOk (checkedHeader s) with
  | false =>
    rw [checkInput_bad s hs.klen_pos hc, checkInput_bad u hu.klen_pos (hhead ▸ hc), hhead]
    exact ⟨rfl, rfl, rfl, rfl, rfl⟩
  | true =>
    rw [checkInput_good s hs.klen_pos (hs.has_header rfl) hc,
      checkInput_good u hu.klen_pos (hu.has_header rfl) (hhead ▸ hc), hhead]
    exact ⟨rfl, by simp [hilen], rfl, rfl, rfl⟩

/-- Settles O43: the parsed header is that of the first 12 decoded bytes, and an accepted payload is the decoded bytes. -/
theorem checkIgnoresPayloadForValidity : Obligations.CheckIgnoresPayloadForValidity := by
  intro s u s' u' hs hparams hklen hilen hkey hinp hs' hu'
  have hu : Ready .check u :=
    ⟨hklen ▸ hs.klen_pos, by rw [hklen, hparams]; exact hs.klen_le, by rw [hilen, hparams]; exact hs.ilen_le,
      fun _ => hilen ▸ hs.has_header rfl⟩
  cases (exec_check_ready s hs).symm.trans hs'
  cases (exec_check_ready u hu).symm.trans hu'
  have hbyte := decodedByte_eq_iff hs.klen_pos hklen hkey
  have hhead : checkedHeader u = checkedHeader s := by
    rw [checkedHeader_eq hu.klen_pos, checkedHeader_eq hs.klen_pos]
    exact headerOfBytes_congr fun i hi => (hbyte i).2 (hinp i hi)
  obtain ⟨hstatus, holen, hha, hhb, hhc⟩ := checkInput_registers_eq hs hu hilen hhead
  refine ⟨hstatus, holen, hha, hhb, hhc, fun i hi hlt hvalid => ?_⟩
  have hok : checksumOk (checkedHeader s) = true := (checkInput_valid hs).symm.trans hvalid
  obtain ⟨-, -, houts⟩ := checkInput_accepts hs hok
  obtain ⟨-, -, houtu⟩ := checkInput_accepts hu (hhead ▸ hok)
  rw [houts i hi hlt, houtu i hi (hilen ▸ hlt)]
  exact hbyte i

/-! ### R98: a message that is only a header -/

/-- CHECK parses the first 12 bytes of the decoded message (R92). -/
theorem checkedHeader_eq_parseHeader {s : State} (hk : 1 ≤ s.klen.toNat) (hl : 12 ≤ s.ilen.toNat) :
    checkedHeader s = parseHeader ((shift .dec s.input s.password).take 12) := by
  have hslice : s.inputSlice 0 hdrLen = s.input.take 12 := by
    refine List.ext_getElem? fun i => ?_
    rw [State.inputSlice_getElem?, List.getElem?_take, State.input_getElem?, hdrLen, Nat.zero_add]
    split_ifs
    · rfl
    · omega
    · rfl
  rw [checkedHeader, transform_clear_eq_shift .dec _ hk, shift_take, hslice]

/-- Where the message is only a header, that is all of it. -/
theorem checkedHeader_of_bare {s : State} (hk : 1 ≤ s.klen.toNat) (hlen : s.ilen.toNat = 12) :
    checkedHeader s = parseHeader (shift .dec s.input s.password) := by
  rw [checkedHeader_eq_parseHeader hk hlen.ge, List.take_of_length_le (by simp [hlen])]

/-- Settles O44: no check fires, the payload is empty in both outcomes, and VALID is the checksum. -/
theorem checkOfBareHeader : Obligations.CheckOfBareHeader := by
  intro s hlen hk hkmax
  have h : Ready .check s := ⟨hk, hkmax, hlen ▸ s.params.inMax_ge, fun _ => hlen.ge⟩
  have hexec : exec .check s = .next (checkInput s) := exec_check_ready s h
  obtain ⟨hha, hhb, hhc⟩ := checkInput_header_words hk hlen.ge
  refine ⟨checkInput s, hexec, (nothingElseFaults .check s _ hexec).2 h, ?_, ?_, ?_⟩
  · cases hc : checksumOk (checkedHeader s) with
    | false => exact (checkInput_rejects hk hc).2
    | true =>
      refine BitVec.eq_of_toNat_eq ?_
      rw [checkInput_olen_toNat hk hlen.ge hc, hlen]
      rfl
  · rw [checkInput_valid h, checksumOk_iff_toNat, hha, hhb, hhc]
  · rw [hha, hhb, hhc, checkedHeader_of_bare hk hlen]

/-! ### R100: a wrong password that CHECK accepts -/

/-- An ENCRYPT of the empty plaintext with both operands 0 under twelve zero bytes. -/
def zeroKeyState : State :=
  { State.reset with key := indexBytes 0 (List.replicate 12 0), klen := 12 }

/-- Its result as the input, under the password whose byte 0 is 1: the first header word decodes to 255, and the other two
stay 0, so the checksum holds. -/
def wrongKeyState : State :=
  { zeroKeyState with
    key := zeroKeyState.key.write 0 1
    inp := (encryptInput zeroKeyState).out
    ilen := (encryptInput zeroKeyState).olen }

/-- Settles O45 by that example, run. -/
theorem someWrongPasswordIsAccepted : Obligations.SomeWrongPasswordIsAccepted := by
  have henc : Ready .encrypt zeroKeyState := ⟨by decide, by decide, by decide, by decide⟩
  have hcheck : Ready .check wrongKeyState := ⟨by decide, by decide, by decide, by decide⟩
  refine ⟨zeroKeyState, encryptInput zeroKeyState, wrongKeyState, checkInput wrongKeyState, henc,
    exec_encrypt_ready _ henc, rfl, rfl, rfl, by decide, ⟨0, by decide, by decide⟩, exec_check_ready _ hcheck, by decide⟩

end Sys2Proof.Machine

/-! PROOFS. Who may change what (`70_reset_and_hazards.md` R123, `10_state.md` R10, R31, R34): O50, O51, O58. -/

namespace Sys2Proof.Machine

section Frames
variable {s t : State}

/-! ### Host writes by what they leave alone -/

/-- A register write that is no command start leaves the output state alone (R42). -/
theorem State.writeReg_sameOutput {n : Nat} {v : Word} (hn : n ≠ 0) (h : s.writeReg n v = some t) : SameOutput s t := by
  rcases s.writeReg_cases t n v h with ⟨h0, -⟩ | ⟨-, rfl⟩ | ⟨-, rfl⟩ | ⟨-, rfl⟩ | ⟨-, rfl⟩ | ⟨-, rfl⟩
  · exact absurd h0 hn
  all_goals exact ⟨rfl, rfl, rfl, rfl, rfl, fun _ _ => rfl⟩

/-- A byte write leaves the output state alone: to KEY or IN it does not reach OUT, and OUT ignores it (R44). -/
theorem State.writeBuf_sameOutput (s : State) (sp : Space) (i : Nat) (v : Byte) : SameOutput s (s.writeBuf sp i v) := by
  cases sp <;> exact ⟨rfl, rfl, rfl, rfl, rfl, fun _ _ => rfl⟩

/-! ### R123: results are held while the unit is idle -/

/-- Settles O50: of the ways a step can go on, the completion needs a busy unit, and the rest leave the output alone. -/
theorem idleUnitKeepsResults : Obligations.IdleUnitKeepsResults := by
  intro s t hb hstep hnocmd hnoreset
  rcases step_cases s t hstep with ⟨es, rfl⟩ | ⟨es, o, rfl⟩ | ⟨es, ha, -⟩ | ⟨es, hbusy, -⟩ | ⟨es, n, v, -, ha, hw⟩ |
    ⟨es, sp, i, v, -, -, -, rfl⟩
  · exact ⟨rfl, rfl, rfl, rfl, rfl, fun _ _ => rfl⟩
  · exact ⟨rfl, rfl, rfl, rfl, rfl, fun _ _ => rfl⟩
  · exact absurd ha (hnoreset es)
  · exact absurd (hb.symm.trans hbusy) Bool.false_ne_true
  · have hn : n ≠ 0 := by rintro rfl; exact hnocmd v es ha
    obtain ⟨hstatus, holen, hha, hhb, hhc, hout⟩ := State.writeReg_sameOutput hn hw
    exact ⟨hstatus, holen, hha, hhb, hhc, hout⟩
  · obtain ⟨hstatus, holen, hha, hhb, hhc, hout⟩ := (s.withAgenda es).writeBuf_sameOutput sp i v
    exact ⟨hstatus, holen, hha, hhb, hhc, hout⟩

/-! ### R10, R31: the input state is the host's -/

/-- Whatever of the input state differs from `s` to `t`, the next event of `s` is the host's write to it.
`onlyHostAndResetChangeInputState` is this of every step but a reset. -/
structure ChangedByHostOnly (s t : State) : Prop where
  params : t.params = s.params
  cmd : t.cmd ≠ s.cmd → ∃ es, s.agenda = .host (.access (.regWrite 0 t.cmd)) :: es
  klen : t.klen ≠ s.klen → ∃ es, s.agenda = .host (.access (.regWrite 2 t.klen)) :: es
  ilen : t.ilen ≠ s.ilen → ∃ es, s.agenda = .host (.access (.regWrite 3 t.ilen)) :: es
  opa : t.opa ≠ s.opa → ∃ v es, s.agenda = .host (.access (.regWrite 5 v)) :: es
  opb : t.opb ≠ s.opb → ∃ v es, s.agenda = .host (.access (.regWrite 6 v)) :: es
  key : ∀ i, t.readBuf .key i ≠ s.readBuf .key i →
    ∃ es, s.agenda = .host (.access (.bufWrite .key i (t.readBuf .key i))) :: es
  inp : ∀ i, t.readBuf .inp i ≠ s.readBuf .inp i →
    ∃ es, s.agenda = .host (.access (.bufWrite .inp i (t.readBuf .inp i))) :: es

/-- Nothing of the input state differs. -/
theorem ChangedByHostOnly.of_same (h : SameInput s t) (hcmd : t.cmd = s.cmd) : ChangedByHostOnly s t where
  params := h.params
  cmd hne := absurd hcmd hne
  klen hne := absurd h.klen hne
  ilen hne := absurd h.ilen hne
  opa hne := absurd h.opa hne
  opb hne := absurd h.opb hne
  key i hne := absurd (h.key i) hne
  inp i hne := absurd (h.inp i) hne

variable {es : List Event}

/-- A register write changes the one register it is to, or nothing. -/
theorem ChangedByHostOnly.of_writeReg {n : Nat} {v : Word} (ha : s.agenda = .host (.access (.regWrite n v)) :: es)
    (h : (s.withAgenda es).writeReg n v = some t) : ChangedByHostOnly s t := by
  have hsame : ChangedByHostOnly s (s.withAgenda es) :=
    .of_same ⟨rfl, rfl, rfl, rfl, rfl, fun _ => rfl, fun _ => rfl⟩ rfl
  rcases (s.withAgenda es).writeReg_cases t n v h with ⟨rfl, rfl⟩ | ⟨rfl, rfl⟩ | ⟨rfl, rfl⟩ | ⟨rfl, rfl⟩ | ⟨rfl, rfl⟩ |
    ⟨-, rfl⟩
  · exact { hsame with cmd := fun _ => ⟨es, ha⟩ }
  · exact { hsame with klen := fun _ => ⟨es, ha⟩ }
  · exact { hsame with ilen := fun _ => ⟨es, ha⟩ }
  · exact { hsame with opa := fun _ => ⟨v, es, ha⟩ }
  · exact { hsame with opb := fun _ => ⟨v, es, ha⟩ }
  · exact hsame

/-- A byte that reads otherwise after a write is the byte written, at the index written. -/
theorem State.readBuf_ne_of_writeBuf {sp sp' : Space} {i j : Nat} {v : Byte} (hsp : sp' ≠ .out)
    (hne : (s.writeBuf sp i v).readBuf sp' j ≠ s.readBuf sp' j) :
    sp' = sp ∧ j = i ∧ (s.writeBuf sp i v).readBuf sp' j = v := by
  have hat : (sp', j) = (sp, i) := of_not_not fun h => hne (s.writeBuf_readBuf_other sp sp' i j v h)
  obtain ⟨rfl, rfl⟩ := Prod.mk.inj hat
  exact ⟨rfl, rfl, s.writeBuf_readBuf_same sp' j v hsp⟩

theorem ChangedByHostOnly.of_writeBuf {sp : Space} {i : Nat} {v : Byte}
    (ha : s.agenda = .host (.access (.bufWrite sp i v)) :: es) :
    ChangedByHostOnly s ((s.withAgenda es).writeBuf sp i v) := by
  have hbyte (sp' : Space) (hsp : sp' ≠ .out) (j : Nat)
      (hne : ((s.withAgenda es).writeBuf sp i v).readBuf sp' j ≠ s.readBuf sp' j) :
      ∃ es', s.agenda = .host (.access (.bufWrite sp' j (((s.withAgenda es).writeBuf sp i v).readBuf sp' j))) :: es' := by
    obtain ⟨rfl, rfl, hv⟩ := State.readBuf_ne_of_writeBuf hsp (s.withAgenda_readBuf es sp' j ▸ hne)
    exact ⟨es, hv.symm ▸ ha⟩
  have hrest := State.writeBuf_eq (s.withAgenda es) sp i v
  refine ⟨?_, ?_, ?_, ?_, ?_, ?_, hbyte .key nofun, hbyte .inp nofun⟩
  · rw [hrest]; rfl
  all_goals
    rw [hrest]
    exact absurd rfl

/-- Settles O51: the unit's own moves keep the whole input state, and a host write changes what it is to. -/
theorem onlyHostAndResetChangeInputState : Obligations.OnlyHostAndResetChangeInputState := by
  intro s t hstep hnoreset
  have h : ChangedByHostOnly s t := by
    rcases step_cases s t hstep with ⟨es, rfl⟩ | ⟨es, o, rfl⟩ | ⟨es, ha, -⟩ | ⟨es, -, hc⟩ | ⟨es, n, v, -, ha, hw⟩ |
      ⟨es, sp, i, v, -, ha, -, rfl⟩
    · exact .of_same ⟨rfl, rfl, rfl, rfl, rfl, fun _ => rfl, fun _ => rfl⟩ rfl
    · exact .of_same ⟨rfl, rfl, rfl, rfl, rfl, fun _ => rfl, fun _ => rfl⟩ rfl
    · exact absurd ha (hnoreset es)
    · obtain ⟨⟨hparams, hklen, hilen, hopa, hopb, hkey, hinp⟩, hcmd, -, -, -⟩ := completeCommand_frame hc
      exact .of_same ⟨hparams, hklen, hilen, hopa, hopb, hkey, hinp⟩ hcmd
    · exact .of_writeReg ha hw
    · exact .of_writeBuf ha
  exact ⟨h.params, h.cmd, h.klen, h.ilen, h.opa, h.opb, h.key, h.inp⟩

/-! ### R34, R131: free values and the observable end state -/

/-- A completion leaves the lists of written KEY and IN bytes as they are. -/
theorem completeCommand_buffers (h : completeCommand s = .next t) : t.key = s.key ∧ t.inp = s.inp := by
  obtain ⟨u, hu, hcase⟩ := completeCommand_cases s
  cases hu.symm.trans h
  rcases hcase with ⟨f, rfl⟩ | ⟨_, v, hd, r, p, k, _, rfl, _, _⟩ <;> exact ⟨rfl, rfl⟩

/-- A written byte reads the same whatever the counters of the free values are. -/
theorem agreeOnInput_with_draws (h : InputsWritten s) (m n : Nat) :
    AgreeOnInput s { s with resetDraw := m, outDraw := n } := by
  obtain ⟨hkey, hinp⟩ := h
  refine ⟨rfl, rfl, rfl, rfl, rfl, fun i hi => ?_, fun i hi => ?_⟩
  · obtain ⟨b, hb⟩ := Option.isSome_iff_exists.1 (hkey i hi)
    simp [State.readBuf, State.buffer, hb]
  · obtain ⟨b, hb⟩ := Option.isSome_iff_exists.1 (hinp i hi)
    simp [State.readBuf, State.buffer, hb]

theorem SameOutput.result_eq (h : SameOutput s t) : t.result = s.result := by
  refine List.ext_getElem (by simp [h.olen]) fun i _ hi => ?_
  rw [State.result_getElem, State.result_getElem, h.out i (State.result_length s ▸ hi)]

/-- Two completions that started from one input state still have one (R31). -/
theorem AgreeOnInput.of_sameInput {s' t' : State} (h : AgreeOnInput s t) (hs : SameInput s s') (ht : SameInput t t') :
    AgreeOnInput s' t' where
  params := by rw [ht.params, h.params, hs.params]
  klen := by rw [ht.klen, h.klen, hs.klen]
  ilen := by rw [ht.ilen, h.ilen, hs.ilen]
  opa := by rw [ht.opa, h.opa, hs.opa]
  opb := by rw [ht.opb, h.opb, hs.opb]
  key i hi := by rw [ht.key, h.key i (hs.klen ▸ hi), hs.key]
  inp i hi := by rw [ht.inp, h.inp i (hs.ilen ▸ hi), hs.inp]

/-- CMD, the input state and the output state are all ten registers (R12). -/
theorem SameOutput.readReg_eq (h : SameOutput s t) (hin : AgreeOnInput s t) (hcmd : t.cmd = s.cmd) :
    t.readReg = s.readReg := by
  funext n
  rw [State.readReg_eq_getElem?, State.readReg_eq_getElem?, hcmd, h.status, hin.klen, hin.ilen, h.olen, hin.opa, hin.opb,
    h.ha, h.hb, h.hc]

end Frames

/-- Settles O58: the output state is a function of word and input, and the rest of the end state is untouched. -/
theorem freeValuesDoNotReachTheEndState : Obligations.FreeValuesDoNotReachTheEndState := by
  intro s s' t' m n hwritten hs ht
  have hagree := agreeOnInput_with_draws hwritten m n
  have hout : SameOutput s' t' :=
    outputIsAFunctionOfWordAndInput s { s with resetDraw := m, outDraw := n } s' t' rfl hagree hs ht
  have hin : AgreeOnInput s' t' :=
    hagree.of_sameInput (completeCommand_frame hs).inputs (completeCommand_frame ht).inputs
  have hcmd : t'.cmd = s'.cmd := (completeCommand_frame ht).cmd.trans (completeCommand_frame hs).cmd.symm
  obtain ⟨hskey, hsinp⟩ := completeCommand_buffers hs
  obtain ⟨htkey, htinp⟩ := completeCommand_buffers ht
  rw [State.endState, State.endState, hout.readReg_eq hin hcmd, hout.result_eq, htkey, htinp, hskey, hsinp]

end Sys2Proof.Machine

/-! PROOFS. The lines of a host script that stand for accesses (`30_encoding.md` R60, R61): O53, O54, O55. -/

namespace Sys2Proof.Machine

/-! ### What one access leaves -/

/-- What an access leaves of an idle unit (R41 to R44); `hostAccess_of_wellFormed` ties it to the host port. -/
def State.accessed (s : State) : HostAccess → State
  | .regRead n => s.observe (.reg n ((s.readReg n).getD 0))
  | .regWrite n v => (s.writeReg n v).getD s
  | .bufRead sp i => s.observe (.byte sp i (s.readBuf sp i))
  | .bufWrite sp i v => s.writeBuf sp i v

theorem hostAccess_of_wellFormed {a : HostAccess} {s : State} (h : a.wellFormed s.params = true) :
    hostAccess a s = .next (s.accessed a) := by
  cases a with
  | regRead n =>
    obtain ⟨v, hv⟩ := Option.isSome_iff_exists.1 ((s.readReg_isSome n).2 (of_decide_eq_true h))
    rw [hostAccess_regRead hv, State.accessed, hv, Option.getD_some]
  | regWrite n v =>
    obtain ⟨t, ht⟩ := Option.isSome_iff_exists.1 ((s.writeReg_isSome n v).2 (of_decide_eq_true h))
    rw [hostAccess_regWrite ht, State.accessed, ht, Option.getD_some]
  | bufRead sp i => exact if_pos (of_decide_eq_true h)
  | bufWrite sp i v => exact hostAccess_bufWrite v (of_decide_eq_true h)

/-- Everything the register write of an access can do. -/
theorem State.accessed_regWrite_cases (s : State) (n : Nat) (v : Word) :
    (n = 0 ∧ s.accessed (.regWrite n v) = startCommand v s) ∨ s.accessed (.regWrite n v) = { s with klen := v } ∨
      s.accessed (.regWrite n v) = { s with ilen := v } ∨ s.accessed (.regWrite n v) = { s with opa := v.setWidth 16 } ∨
      s.accessed (.regWrite n v) = { s with opb := v.setWidth 16 } ∨ s.accessed (.regWrite n v) = s := by
  cases h : s.writeReg n v with
  | none => simp [State.accessed, h]
  | some t =>
    have ht : s.accessed (.regWrite n v) = t := by rw [State.accessed, h, Option.getD_some]
    rw [ht]
    rcases s.writeReg_cases t n v h with ⟨hn, rfl⟩ | ⟨-, rfl⟩ | ⟨-, rfl⟩ | ⟨-, rfl⟩ | ⟨-, rfl⟩ | ⟨-, rfl⟩ <;> simp [*]

/-- An access neither reads nor writes the events to come. -/
theorem State.accessed_withAgenda (s : State) (a : HostAccess) (es : List Event) :
    (s.withAgenda es).accessed a = (s.accessed a).withAgenda es := by
  cases a with
  | regRead n => rfl
  | regWrite n v =>
    match n with
    | 0 | 1 | 2 | 3 | 4 | 5 | 6 | 7 | 8 | 9 => rfl
    | _ + 10 => rfl
  | bufRead sp i => rw [State.accessed, State.withAgenda_readBuf]; rfl
  | bufWrite sp i v => cases sp <;> rfl

/-- Only a CMD write makes the unit busy (R42, R53). -/
theorem State.accessed_busy {s : State} {a : HostAccess} (hcmd : ∀ w, a ≠ .regWrite 0 w) :
    (s.accessed a).status.busy = s.status.busy := by
  cases a with
  | regRead | bufRead => rfl
  | regWrite n v =>
    rcases s.accessed_regWrite_cases n v with ⟨rfl, -⟩ | h | h | h | h | h
    · exact absurd rfl (hcmd v)
    all_goals rw [h]
  | bufWrite sp i v => cases sp <;> rfl

theorem State.accessed_params (s : State) (a : HostAccess) : (s.accessed a).params = s.params := by
  cases a with
  | regRead | bufRead => rfl
  | regWrite n v =>
    rcases s.accessed_regWrite_cases n v with ⟨-, h⟩ | h | h | h | h | h
    all_goals exact (congrArg State.params h).trans rfl
  | bufWrite sp i v => cases sp <;> rfl

/-- A KEY or IN byte changes by a write to it only. -/
theorem State.accessed_readBuf {s : State} {a : HostAccess} {sp : Space} {i : Nat} (h : ∀ v, a ≠ .bufWrite sp i v) :
    (s.accessed a).readBuf sp i = s.readBuf sp i := by
  cases a with
  | regRead | bufRead => exact State.observe_readBuf ..
  | regWrite n v =>
    rcases s.accessed_regWrite_cases n v with ⟨-, h⟩ | h | h | h | h | h <;> rw [h] <;> cases sp <;> rfl
  | bufWrite sp' j v =>
    refine s.writeBuf_readBuf_other sp' sp j i v fun hat => h v ?_
    obtain ⟨rfl, rfl⟩ := Prod.mk.inj hat
    rfl

/-! ### What a list of accesses leaves -/

/-- The state after accesses one after the other; `runSteps_accesses` ties it to the machine. -/
def State.accessedAll (s : State) (as : List HostAccess) : State := as.foldl State.accessed s

/-- What every single access of the list leaves alone, the whole list does. -/
theorem State.accessedAll_frame {α : Type} (f : State → α) {as : List HostAccess}
    (h : ∀ a ∈ as, ∀ u : State, f (u.accessed a) = f u) (s : State) : f (s.accessedAll as) = f s := by
  induction as generalizing s with
  | nil => rfl
  | cons a as ih =>
    have hfirst : f (s.accessed a) = f s := h a (List.mem_cons_self ..) s
    exact (ih (fun b hb => h b (List.mem_cons_of_mem a hb)) (s.accessed a)).trans hfirst

/-- A byte that no access of the list writes. -/
theorem State.accessedAll_readBuf_unwritten {as : List HostAccess} {sp : Space} {i : Nat}
    (h : ∀ v, .bufWrite sp i v ∉ as) (s : State) : (s.accessedAll as).readBuf sp i = s.readBuf sp i :=
  State.accessedAll_frame (·.readBuf sp i) (fun _ ha _ => State.accessed_readBuf fun v hv => h v (hv ▸ ha)) s

/-- A KEY or IN byte that the list writes, with one value however often. -/
theorem State.accessedAll_readBuf_written {as : List HostAccess} {sp : Space} {i : Nat} {v : Byte} (hsp : sp ≠ .out)
    (hmem : .bufWrite sp i v ∈ as) (hone : ∀ w, .bufWrite sp i w ∈ as → w = v) (s : State) :
    (s.accessedAll as).readBuf sp i = v := by
  induction as generalizing s with
  | nil => cases hmem
  | cons a as ih =>
    by_cases hlater : .bufWrite sp i v ∈ as
    · exact ih hlater (fun w hw => hone w (List.mem_cons_of_mem a hw)) (s.accessed a)
    · obtain rfl : .bufWrite sp i v = a := (List.mem_cons.1 hmem).resolve_right hlater
      have hlast (w : Byte) (hw : .bufWrite sp i w ∈ as) : False :=
        hlater (hone w (List.mem_cons_of_mem _ hw) ▸ hw)
      exact (State.accessedAll_readBuf_unwritten hlast _).trans (s.writeBuf_readBuf_same sp i v hsp)

theorem State.accessedAll_append (s : State) (as bs : List HostAccess) :
    s.accessedAll (as ++ bs) = (s.accessedAll as).accessedAll bs :=
  List.foldl_append

theorem State.accessedAll_withAgenda (s : State) (as : List HostAccess) (es : List Event) :
    (s.withAgenda es).accessedAll as = (s.accessedAll as).withAgenda es := by
  induction as generalizing s with
  | nil => rfl
  | cons a as ih => exact (congrArg (State.accessedAll · as) (s.accessed_withAgenda a es)).trans (ih _)

/-- Accesses within the interface, none a CMD write, run one a step at an idle unit (R48). -/
theorem runSteps_accesses {s : State} {as : List HostAccess} {es : List Event} (hb : s.status.busy = false)
    (hok : ∀ a ∈ as, a.wellFormed s.params = true) (hcmd : ∀ w, .regWrite 0 w ∉ as)
    (ha : s.agenda = as.map lineOf ++ es) : runSteps as.length s = .next ((s.accessedAll as).withAgenda es) := by
  induction as generalizing s with
  | nil => exact congrArg Host.Outcome.next (State.withAgenda_self s es ha).symm
  | cons a as ih =>
    have hne (w : Word) : a ≠ .regWrite 0 w := fun h => hcmd w (h ▸ List.mem_cons_self ..)
    have hstep : step s = .next ((s.accessed a).withAgenda (as.map lineOf ++ es)) := by
      have ha' : s.agenda = .host (.access a) :: (as.map lineOf ++ es) := ha
      have hwf : a.wellFormed (s.withAgenda (as.map lineOf ++ es)).params = true := hok a (List.mem_cons_self ..)
      rw [step_access_idle ha' hb, hostAccess_of_wellFormed hwf, State.accessed_withAgenda]
    have hidle : ((s.accessed a).withAgenda (as.map lineOf ++ es)).status.busy = false :=
      (State.accessed_busy hne).trans hb
    have hok' (b : HostAccess) (hmem : b ∈ as) :
        b.wellFormed ((s.accessed a).withAgenda (as.map lineOf ++ es)).params = true := by
      rw [State.withAgenda_params, s.accessed_params]
      exact hok b (List.mem_cons_of_mem a hmem)
    rw [List.length_cons, runSteps_succ _ _ _ hstep,
      ih hidle hok' (fun w hmem => hcmd w (List.mem_cons_of_mem a hmem)) rfl, State.accessedAll_withAgenda,
      State.withAgenda_withAgenda]
    rfl

/-- A script line that stands for accesses within the interface takes one step to expand and one for each access (R61). -/
theorem runSteps_line {s : State} {l : ScriptLine} {as : List HostAccess} {es : List Event} (hb : s.status.busy = false)
    (ha : s.agenda = .host l :: es)
    (hl : idleLine l (s.withAgenda es) = .next (s.withAgenda (as.map lineOf ++ es)))
    (hok : ∀ a ∈ as, a.wellFormed s.params = true) (hcmd : ∀ w, .regWrite 0 w ∉ as) :
    runSteps (as.length + 1) s = .next ((s.accessedAll as).withAgenda es) := by
  have hexpand : step s = .next (s.withAgenda (as.map lineOf ++ es)) := (step_host_idle s l es hb ha).trans hl
  have hrun := runSteps_accesses (s := s.withAgenda (as.map lineOf ++ es)) hb hok hcmd rfl
  rw [runSteps_succ _ _ _ hexpand, hrun, State.accessedAll_withAgenda, State.withAgenda_withAgenda]

/-! ### The lines `key` and `msg` -/

/-- The accesses of a line that loads `bytes` into space `sp` and their number into register `n`; `keyLines_eq` and
`msgLines_eq` tie it to the script. -/
def loadAccesses (sp : Space) (n : Nat) (bytes : List Byte) : List HostAccess :=
  bytes.mapIdx (.bufWrite sp) ++ [.regWrite n (BitVec.ofNat 32 bytes.length)]

theorem writeLines_eq (sp : Space) (k : Nat) (bytes : List Byte) :
    writeLines sp k bytes = bytes.mapIdx fun i b => lineOf (.bufWrite sp (k + i) b) := by
  induction bytes generalizing k with
  | nil => rfl
  | cons b bytes ih => simp only [writeLines, ih, List.mapIdx_cons, Nat.add_zero, Nat.add_assoc, Nat.add_comm 1]

theorem writeLines_zero (sp : Space) (bytes : List Byte) :
    writeLines sp 0 bytes = (bytes.mapIdx (.bufWrite sp)).map lineOf := by
  rw [writeLines_eq]
  exact List.ext_getElem? fun i => by simp [Function.comp_def]

theorem keyLines_eq (bytes : List Byte) : keyLines bytes = (loadAccesses .key 2 bytes).map lineOf := by
  rw [keyLines, writeLines_zero, loadAccesses, List.map_append]
  rfl

theorem msgLines_eq (bytes : List Byte) : msgLines bytes = (loadAccesses .inp 3 bytes).map lineOf := by
  rw [msgLines, writeLines_zero, loadAccesses, List.map_append]
  rfl

theorem loadAccesses_length (sp : Space) (n : Nat) (bytes : List Byte) :
    (loadAccesses sp n bytes).length = bytes.length + 1 := by
  simp [loadAccesses]

theorem mem_loadAccesses {sp : Space} {n : Nat} {bytes : List Byte} {a : HostAccess} :
    a ∈ loadAccesses sp n bytes ↔
      (∃ i b, bytes[i]? = some b ∧ a = .bufWrite sp i b) ∨ a = .regWrite n (BitVec.ofNat 32 bytes.length) := by
  simp only [loadAccesses, List.mem_append, List.mem_mapIdx, List.mem_singleton, List.getElem?_eq_some_iff]
  constructor
  · rintro (⟨i, hi, rfl⟩ | rfl)
    · exact .inl ⟨i, _, ⟨hi, rfl⟩, rfl⟩
    · exact .inr rfl
  · rintro (⟨i, b, ⟨hi, rfl⟩, rfl⟩ | rfl)
    · exact .inl ⟨i, hi, rfl⟩
    · exact .inr rfl

section Load
variable {sp : Space} {n : Nat} {bytes : List Byte} {s : State} {es : List Event}

theorem loadAccesses_readBuf (hsp : sp ≠ .out) {i : Nat} {b : Byte} (hi : bytes[i]? = some b) :
    (s.accessedAll (loadAccesses sp n bytes)).readBuf sp i = b := by
  refine State.accessedAll_readBuf_written hsp (mem_loadAccesses.2 (.inl ⟨i, b, hi, rfl⟩)) (fun w hw => ?_) s
  obtain ⟨j, c, hj, heq⟩ | heq := mem_loadAccesses.1 hw
  · cases heq
    exact Option.some.inj (hj.symm.trans hi)
  · cases heq

theorem loadAccesses_readBuf_beyond {i : Nat} (hi : bytes.length ≤ i) :
    (s.accessedAll (loadAccesses sp n bytes)).readBuf sp i = s.readBuf sp i := by
  refine State.accessedAll_readBuf_unwritten (fun w hw => ?_) s
  obtain ⟨j, c, hj, heq⟩ | heq := mem_loadAccesses.1 hw
  · cases heq
    exact Nat.not_lt.2 hi (List.getElem?_eq_some_iff.1 hj).1
  · cases heq

/-- The length register is written last. -/
theorem accessedAll_load_eq (s : State) :
    s.accessedAll (loadAccesses sp n bytes) =
      (s.accessedAll (bytes.mapIdx (.bufWrite sp))).accessed (.regWrite n (BitVec.ofNat 32 bytes.length)) :=
  s.accessedAll_append _ _

/-- What neither a byte write to the space nor a write to the length register changes. -/
theorem accessedAll_load_frame {α : Type} (f : State → α) (hbuf : ∀ i b u, f (State.accessed u (.bufWrite sp i b)) = f u)
    (hreg : ∀ v u, f (State.accessed u (.regWrite n v)) = f u) (s : State) :
    f (s.accessedAll (loadAccesses sp n bytes)) = f s := by
  refine State.accessedAll_frame f (fun a ha u => ?_) s
  obtain ⟨i, b, -, rfl⟩ | rfl := mem_loadAccesses.1 ha
  · exact hbuf i b u
  · exact hreg _ u

end Load

/-- A loaded password: KEY and KLEN, and nothing else. -/
theorem accessedAll_loadKey (s : State) (bytes : List Byte) :
    s.accessedAll (loadAccesses .key 2 bytes) =
      { s with
        key := (s.accessedAll (loadAccesses .key 2 bytes)).key
        klen := BitVec.ofNat 32 bytes.length } := by
  have hklen : (s.accessedAll (loadAccesses .key 2 bytes)).klen = BitVec.ofNat 32 bytes.length := by
    rw [accessedAll_load_eq]
    rfl
  have hrest := accessedAll_load_frame (sp := .key) (n := 2) (bytes := bytes)
    (fun u => { u with key := [], klen := 0 }) (fun _ _ _ => rfl) (fun _ _ => rfl) s
  rw [← hklen]
  exact congrArg (fun u => { u with
    key := (s.accessedAll (loadAccesses .key 2 bytes)).key
    klen := (s.accessedAll (loadAccesses .key 2 bytes)).klen }) hrest

/-- A loaded input: IN and ILEN, and nothing else. -/
theorem accessedAll_loadInput (s : State) (bytes : List Byte) :
    s.accessedAll (loadAccesses .inp 3 bytes) =
      { s with
        inp := (s.accessedAll (loadAccesses .inp 3 bytes)).inp
        ilen := BitVec.ofNat 32 bytes.length } := by
  have hilen : (s.accessedAll (loadAccesses .inp 3 bytes)).ilen = BitVec.ofNat 32 bytes.length := by
    rw [accessedAll_load_eq]
    rfl
  have hrest := accessedAll_load_frame (sp := .inp) (n := 3) (bytes := bytes)
    (fun u => { u with inp := [], ilen := 0 }) (fun _ _ _ => rfl) (fun _ _ => rfl) s
  rw [← hilen]
  exact congrArg (fun u => { u with
    inp := (s.accessedAll (loadAccesses .inp 3 bytes)).inp
    ilen := (s.accessedAll (loadAccesses .inp 3 bytes)).ilen }) hrest

/-- A loading line whose bytes fit takes a step for each, one to expand and one for the length. -/
theorem runSteps_load {sp : Space} {n : Nat} {bytes : List Byte} {s : State} {l : ScriptLine} {es : List Event}
    (hb : s.status.busy = false) (ha : s.agenda = .host l :: es)
    (hl : idleLine l (s.withAgenda es) = .next (s.withAgenda ((loadAccesses sp n bytes).map lineOf ++ es)))
    (hn : n ≤ 9) (hcmd : n ≠ 0) (hfit : bytes.length ≤ s.params.capacity sp) :
    runSteps (bytes.length + 2) s = .next ((s.accessedAll (loadAccesses sp n bytes)).withAgenda es) := by
  have hlen : bytes.length + 2 = (loadAccesses sp n bytes).length + 1 := by rw [loadAccesses_length]
  rw [hlen]
  refine runSteps_line hb ha hl (fun a hmem => ?_) (fun w hmem => ?_)
  · obtain ⟨i, b, hi, rfl⟩ | rfl := mem_loadAccesses.1 hmem
    · exact decide_eq_true ((List.getElem?_eq_some_iff.1 hi).1.trans_le hfit)
    · exact decide_eq_true hn
  · obtain ⟨i, b, -, heq⟩ | heq := mem_loadAccesses.1 hmem
    · cases heq
    · cases heq
      exact hcmd rfl

theorem runSteps_keyLine {s : State} {bytes : List Byte} {es : List Event} (hb : s.status.busy = false)
    (hfit : bytes.length ≤ s.params.keyMax) (ha : s.agenda = .host (.key bytes) :: es) :
    runSteps (bytes.length + 2) s = .next ((s.accessedAll (loadAccesses .key 2 bytes)).withAgenda es) :=
  runSteps_load hb ha (by rw [← keyLines_eq]; rfl) (by decide) (by decide) hfit

theorem runSteps_msgLine {s : State} {bytes : List Byte} {es : List Event} (hb : s.status.busy = false)
    (hfit : bytes.length ≤ s.params.inMax) (ha : s.agenda = .host (.msg bytes) :: es) :
    runSteps (bytes.length + 2) s = .next ((s.accessedAll (loadAccesses .inp 3 bytes)).withAgenda es) :=
  runSteps_load hb ha (by rw [← msgLines_eq]; rfl) (by decide) (by decide) hfit

/-- Settles O53: each line runs its accesses, which write the bytes at their indices and then the length. -/
theorem keyAndMsgLinesLoadInputs : Obligations.KeyAndMsgLinesLoadInputs := by
  intro s bytes es hb
  refine ⟨fun hfit ha => ⟨_, runSteps_keyLine hb hfit ha, fun i b hi => ?_, fun i hi => ?_, ?_⟩,
    fun hfit ha => ⟨_, runSteps_msgLine hb hfit ha, fun i b hi => ?_, fun i hi => ?_, ?_⟩⟩
  · rw [State.withAgenda_readBuf, loadAccesses_readBuf (by decide) hi]
  · rw [State.withAgenda_readBuf, loadAccesses_readBuf_beyond hi]
  · exact congrArg (State.withAgenda · es) (accessedAll_loadKey s bytes)
  · rw [State.withAgenda_readBuf, loadAccesses_readBuf (by decide) hi]
  · rw [State.withAgenda_readBuf, loadAccesses_readBuf_beyond hi]
  · exact congrArg (State.withAgenda · es) (accessedAll_loadInput s bytes)

end Sys2Proof.Machine

/-! PROOFS. The lines that read a result (`30_encoding.md` R61, `70_reset_and_hazards.md` R128): O55, O54. -/

namespace Sys2Proof.Machine

/-! ### The line `out` -/

/-- Byte reads hand the host the bytes in their order and change nothing else. -/
theorem accessedAll_bufReads (sp : Space) (is : List Nat) (s : State) :
    s.accessedAll (is.map (.bufRead sp)) =
      { s with seen := (is.map fun i => Observation.byte sp i (s.readBuf sp i)).reverse ++ s.seen } := by
  induction is generalizing s with
  | nil => rfl
  | cons i is ih =>
    have htail := ih (s.observe (.byte sp i (s.readBuf sp i)))
    simp only [State.observe_readBuf, State.observe_seen] at htail
    have hseen : ((i :: is).map fun i => Observation.byte sp i (s.readBuf sp i)).reverse ++ s.seen =
        (is.map fun i => Observation.byte sp i (s.readBuf sp i)).reverse ++ .byte sp i (s.readBuf sp i) :: s.seen := by
      simp
    rw [hseen]
    exact htail

/-- The accesses of the line `out` for a result of `n` bytes; `outLines_eq` ties it to the script. -/
def outAccesses (n : Nat) : List HostAccess := .regRead 4 :: (List.range n).map (.bufRead .out)

theorem outLines_eq (s : State) : outLines s = (outAccesses s.olen.toNat).map lineOf := by
  simp [outLines, outAccesses, Function.comp_def]

/-- Settles O55: the accesses are the read of OLEN and the reads of the result's bytes. -/
theorem outLineHandsBackTheResult : Obligations.OutLineHandsBackTheResult := by
  intro s es hb hfit ha
  have hlen : s.olen.toNat + 2 = (outAccesses s.olen.toNat).length + 1 := by simp [outAccesses]
  have hl : idleLine .out (s.withAgenda es) = .next (s.withAgenda ((outAccesses s.olen.toNat).map lineOf ++ es)) := by
    rw [← outLines_eq]
    rfl
  have hok (a : HostAccess) (hmem : a ∈ outAccesses s.olen.toNat) : a.wellFormed s.params = true := by
    obtain rfl | hmem := List.mem_cons.1 hmem
    · rfl
    · obtain ⟨i, hi, rfl⟩ := List.mem_map.1 hmem
      exact decide_eq_true ((List.mem_range.1 hi).trans_le hfit)
  have hreads := accessedAll_bufReads .out (List.range s.olen.toNat) (s.observe (.reg 4 s.olen))
  simp only [State.observe_readBuf, State.observe_seen] at hreads
  rw [hlen, runSteps_line hb ha hl hok (by simp [outAccesses])]
  exact congrArg (fun u : State => Host.Outcome.next (u.withAgenda es)) hreads

/-! ### The line `mov` -/

/-- The accesses of the line `mov` for a result of `n` bytes, byte `i` being `f i`, and OLEN `v`; `movLines_eq` ties it to
the script. -/
def movAccesses (n : Nat) (f : Nat → Byte) (v : Word) : List HostAccess :=
  .regRead 4 :: ((List.range n).flatMap fun i => [.bufRead .out i, .bufWrite .inp i (f i)]) ++ [.regWrite 3 v]

theorem movLines_eq (s : State) : movLines s = (movAccesses s.olen.toNat (s.readBuf .out) s.olen).map lineOf := by
  simp [movLines, movAccesses, List.map_flatMap]

section Mov
variable {n : Nat} {f : Nat → Byte} {v : Word} {a : HostAccess}

theorem movAccesses_length : (movAccesses n f v).length = 2 * n + 2 := by
  simp [movAccesses, List.length_flatMap, Nat.mul_comm]

theorem mem_movAccesses : a ∈ movAccesses n f v ↔
    a = .regRead 4 ∨ (∃ i, i < n ∧ (a = .bufRead .out i ∨ a = .bufWrite .inp i (f i))) ∨ a = .regWrite 3 v := by
  simp [movAccesses]

/-- The accesses of a `mov` whose result fits IN are within the interface: OUT is larger than IN (R5). -/
theorem movAccesses_wellFormed {p : Params} (hfit : n ≤ p.inMax) (hmem : a ∈ movAccesses n f v) :
    a.wellFormed p = true := by
  obtain rfl | ⟨i, hi, rfl | rfl⟩ | rfl := mem_movAccesses.1 hmem
  · rfl
  · exact decide_eq_true ((hi.trans_le hfit).trans_le (Nat.le_add_right p.inMax 12))
  · exact decide_eq_true (hi.trans_le hfit)
  · rfl

theorem movAccesses_readBuf_inp {i : Nat} (hi : i < n) (s : State) :
    (s.accessedAll (movAccesses n f v)).readBuf .inp i = f i := by
  refine State.accessedAll_readBuf_written (by decide) (mem_movAccesses.2 (.inr (.inl ⟨i, hi, .inr rfl⟩)))
    (fun w hw => ?_) s
  obtain heq | ⟨j, -, heq | heq⟩ | heq := mem_movAccesses.1 hw <;> cases heq
  rfl

theorem movAccesses_readBuf_inp_beyond {i : Nat} (hi : n ≤ i) (s : State) :
    (s.accessedAll (movAccesses n f v)).readBuf .inp i = s.readBuf .inp i := by
  refine State.accessedAll_readBuf_unwritten (fun w hw => ?_) s
  obtain heq | ⟨j, hj, heq | heq⟩ | heq := mem_movAccesses.1 hw <;> cases heq
  exact Nat.not_lt.2 hi hj

/-- The copy changes IN, ILEN and what the host has read, and nothing else. -/
theorem accessedAll_mov (s : State) : s.accessedAll (movAccesses n f v) =
    { s with
      inp := (s.accessedAll (movAccesses n f v)).inp
      ilen := v
      seen := (s.accessedAll (movAccesses n f v)).seen } := by
  have hilen : (s.accessedAll (movAccesses n f v)).ilen = v := by
    rw [movAccesses, State.accessedAll_append]
    rfl
  have hrest := State.accessedAll_frame (fun u => { u with inp := [], ilen := 0, seen := [] })
    (as := movAccesses n f v) (fun a hmem u => by
      obtain rfl | ⟨i, -, rfl | rfl⟩ | rfl := mem_movAccesses.1 hmem <;> rfl) s
  calc s.accessedAll (movAccesses n f v)
      = { s with
          inp := (s.accessedAll (movAccesses n f v)).inp
          ilen := (s.accessedAll (movAccesses n f v)).ilen
          seen := (s.accessedAll (movAccesses n f v)).seen } := congrArg (fun u => { u with
            inp := (s.accessedAll (movAccesses n f v)).inp
            ilen := (s.accessedAll (movAccesses n f v)).ilen
            seen := (s.accessedAll (movAccesses n f v)).seen }) hrest
    _ = _ := by rw [hilen]

end Mov

/-- A `mov` whose result fits IN runs its accesses. -/
theorem runSteps_movLine {s : State} {es : List Event} (hb : s.status.busy = false) (ha : s.agenda = .host .mov :: es)
    (hfit : s.olen.toNat ≤ s.params.inMax) :
    runSteps (2 * s.olen.toNat + 3) s =
      .next ((s.accessedAll (movAccesses s.olen.toNat (s.readBuf .out) s.olen)).withAgenda es) := by
  have hl : idleLine .mov (s.withAgenda es) =
      .next (s.withAgenda ((movAccesses s.olen.toNat (s.readBuf .out) s.olen).map lineOf ++ es)) := by
    rw [← movLines_eq]
    exact if_pos hfit
  rw [← runSteps_line hb ha hl (fun _ => movAccesses_wellFormed hfit) (by simp [mem_movAccesses]), movAccesses_length]

/-- Settles O54: where the result fits, the accesses copy it; where not, the line is refused at once. -/
theorem movLineMovesResultToInput : Obligations.MovLineMovesResultToInput := by
  intro s es hb ha
  refine ⟨fun hfit => ⟨_, runSteps_movLine hb ha hfit, ?_⟩, fun hlong => ?_⟩
  · have hinp (i : Nat) (hi : i < s.olen.toNat) := movAccesses_readBuf_inp (f := s.readBuf .out) (v := s.olen) hi s
    have hbeyond (i : Nat) (hi : s.olen.toNat ≤ i) :=
      movAccesses_readBuf_inp_beyond (f := s.readBuf .out) (v := s.olen) hi s
    have hrest := accessedAll_mov (n := s.olen.toNat) (f := s.readBuf .out) (v := s.olen) s
    generalize s.accessedAll (movAccesses s.olen.toNat (s.readBuf .out) s.olen) = t at hinp hbeyond hrest ⊢
    refine ⟨⟨?_, ?_, fun i _ => ?_, ?_, hinp⟩, ⟨?_, ?_, ?_, ?_, ?_, fun i _ => ?_⟩, rfl, ?_, ?_, hbeyond⟩
    all_goals rw [hrest]; rfl
  · exact (step_host_idle s .mov es hb ha).trans (if_neg (Nat.not_le.2 hlong))

end Sys2Proof.Machine

/-! PROOFS. The line `run` and the document's calls as scripts (`30_encoding.md` R60 to R62): O52, O56, O57. -/

namespace Sys2Proof.Machine

/-- Two runs that go on, one after the other. -/
theorem runSteps_trans {j k : Nat} {s t : State} {o : Host.Outcome State Fault Refusal} (hs : runSteps j s = .next t)
    (ht : runSteps k t = o) : runSteps (j + k) s = o :=
  (runSteps_add j k s t hs).trans ht

/-! ### The line `run` -/

theorem SameInput.agreeOnInput {s t : State} (h : SameInput s t) : AgreeOnInput s t :=
  ⟨h.params, h.klen, h.ilen, h.opa, h.opb, fun i _ => h.key i, fun i _ => h.inp i⟩

/-- The polls of a `wait` that still find BUSY = 1 read STATUS and change nothing of the unit (R41, R60). -/
theorem runSteps_polls {s : State} {polls : Nat} {es : List Event} (hb : s.status.busy = true)
    (ha : s.agenda = .host (.wait polls) :: es) :
    ∃ u, runSteps polls s = .next u ∧ u.agenda = .host (.wait 0) :: es ∧ u.status = s.status ∧ u.cmd = s.cmd ∧
      SameInput s u := by
  induction polls generalizing s with
  | zero => exact ⟨s, rfl, ha, rfl, rfl, rfl, rfl, rfl, rfl, rfl, fun _ => rfl, fun _ => rfl⟩
  | succ k ih =>
    have hpoll : step s = .next ((pollStatus s).withAgenda (.host (.wait k) :: es)) := step_host_busy s _ es hb ha
    obtain ⟨u, hrun, hagenda, hstatus, hcmd, hparams, hklen, hilen, hopa, hopb, hkey, hinp⟩ :=
      ih (s := (pollStatus s).withAgenda (.host (.wait k) :: es)) hb rfl
    exact ⟨u, (runSteps_succ k _ _ hpoll).trans hrun, hagenda, hstatus, hcmd, hparams, hklen, hilen, hopa, hopb, hkey,
      hinp⟩

/-- A started command and the `wait` for it: the polls, the completion, and the read that finds BUSY = 0. -/
theorem runSteps_wait {s : State} {polls : Nat} {es : List Event} (hb : s.status.busy = true)
    (ha : s.agenda = .host (.wait polls) :: es) :
    ∃ u v, u.cmd = s.cmd ∧ SameInput s u ∧ completeCommand u = .next v ∧ v.status.busy = false ∧
      runSteps (polls + 2) s = .next (pollStatus (v.withAgenda es)) := by
  obtain ⟨u, hpolls, hagenda, hstatus, hcmd, hsame⟩ := runSteps_polls hb ha
  have hbusy : u.status.busy = true := hstatus ▸ hb
  obtain ⟨v, hv, hidle, -⟩ := completeCommand_finishes u
  have hcomplete : step u = .next v := (step_wait_busy u es hbusy hagenda).trans hv
  have hlast : step v = .next (pollStatus (v.withAgenda es)) :=
    step_host_idle v _ es hidle ((completeCommand_frame hv).agenda.trans hagenda)
  exact ⟨u, v, hcmd, hsame, hv, hidle,
    runSteps_trans hpolls ((runSteps_succ 1 _ _ hcomplete).trans (runSteps_succ 0 _ _ hlast))⟩

theorem SameInput.symm {s t : State} (h : SameInput s t) : SameInput t s :=
  ⟨h.params.symm, h.klen.symm, h.ilen.symm, h.opa.symm, h.opb.symm, fun i => (h.key i).symm, fun i => (h.inp i).symm⟩

theorem SameInput.trans {s t u : State} (h : SameInput s t) (h' : SameInput t u) : SameInput s u :=
  ⟨h'.params.trans h.params, h'.klen.trans h.klen, h'.ilen.trans h.ilen, h'.opa.trans h.opa, h'.opb.trans h.opb,
    fun i => (h'.key i).trans (h.key i), fun i => (h'.inp i).trans (h.inp i)⟩

/-- Settles O52: the expansion, the command start, and the wait, whose completion has the output of the command at its
start because the input is the same. -/
theorem runLinePerformsOneCommand : Obligations.RunLinePerformsOneCommand := by
  intro s i polls es hb ha
  have hexpand : step s = .next (s.withAgenda (runLines i polls ++ es)) := step_host_idle s _ es hb ha
  have hstart : step (s.withAgenda (runLines i polls ++ es)) =
      .next ((startCommand (encode i) s).withAgenda (.host (.wait polls) :: es)) :=
    step_cmdWrite (es := .host (.wait polls) :: es) hb rfl
  obtain ⟨u, v, hcmd, ⟨hparams, hklen, hilen, hopa, hopb, hkey, hinp⟩, hv, hidle, hwait⟩ :=
    runSteps_wait (s := (startCommand (encode i) s).withAgenda (.host (.wait polls) :: es)) (es := es) rfl rfl
  have hsame : SameInput (startCommand (encode i) s) u := ⟨hparams, hklen, hilen, hopa, hopb, hkey, hinp⟩
  obtain ⟨t, ht, -⟩ := completeCommand_finishes (startCommand (encode i) s)
  obtain ⟨hstatus, holen, hha, hhb, hhc, hout⟩ :=
    outputIsAFunctionOfWordAndInput (startCommand (encode i) s) u t v hcmd hsame.agreeOnInput ht hv
  obtain ⟨vparams, vklen, vilen, vopa, vopb, vkey, vinp⟩ :=
    ((completeCommand_frame ht).inputs.symm.trans hsame).trans (completeCommand_frame hv).inputs
  have hword : v.cmd = encode i := (completeCommand_frame hv).cmd.trans hcmd
  refine ⟨t, pollStatus (v.withAgenda es), ?_, ?_, ⟨hstatus, holen, hha, hhb, hhc, hout⟩,
    ⟨vparams, vklen, vilen, vopa, vopb, vkey, vinp⟩, hword, hidle, rfl⟩
  · exact (completeCommand_of_ok (s := startCommand (encode i) s) (decodeWord_encode i)).symm.trans ht
  · rw [runSteps_succ (polls + 3) s _ hexpand, runSteps_succ (polls + 2) _ _ hstart, hwait]

end Sys2Proof.Machine

/-! PROOFS. The document's calls as scripts (`30_encoding.md` R62, `60_exceptions.md` R112): O56, O57. -/

namespace Sys2Proof.Machine

/-! ### The inputs of a call loaded -/

/-- `t` is an idle unit with the capacities of `s` and the password and the input of a call loaded. -/
structure InputsLoaded (password input : List Byte) (s t : State) : Prop where
  password_eq : t.password = password
  input_eq : t.input = input
  klen : t.klen.toNat = password.length
  ilen : t.ilen.toNat = input.length
  params : t.params = s.params
  idle : t.status.busy = false

/-- The lines `key` and `msg` one after the other (R61). -/
theorem runSteps_loadInputs {s : State} {password input : List Byte} {es : List Event} (hb : s.status.busy = false)
    (hk : password.length ≤ s.params.keyMax) (hi : input.length ≤ s.params.inMax)
    (ha : s.agenda = .host (.key password) :: .host (.msg input) :: es) :
    ∃ t, runSteps (password.length + input.length + 4) s = .next t ∧ InputsLoaded password input s t ∧
      t.agenda = es := by
  obtain ⟨t, hrun, hkey, -, ht⟩ := (keyAndMsgLinesLoadInputs s password _ hb).1 hk ha
  have htidle : t.status.busy = false := by rw [ht]; exact hb
  have htfit : input.length ≤ t.params.inMax := by rw [ht]; exact hi
  have htagenda : t.agenda = .host (.msg input) :: es := by rw [ht]
  obtain ⟨u, hrun', hinp, -, hu⟩ := (keyAndMsgLinesLoadInputs t input es htidle).2 htfit htagenda
  have hklen : u.klen.toNat = password.length := by
    rw [hu, ht]
    exact Nat.mod_eq_of_lt (hk.trans_lt s.params.keyMax_lt)
  have hilen : u.ilen.toNat = input.length := by
    rw [hu]
    exact Nat.mod_eq_of_lt (hi.trans_lt ((Nat.le_add_right _ 12).trans_lt s.params.outMax_lt))
  have hsteps : password.length + input.length + 4 = (password.length + 2) + (input.length + 2) := by omega
  refine ⟨u, hsteps ▸ runSteps_trans hrun hrun', ⟨?_, ?_, hklen, hilen, ?_, ?_⟩, ?_⟩
  · refine List.ext_getElem (by rw [State.password_length, hklen]) fun j _ hj => ?_
    have hukey : u.readBuf .key j = t.readBuf .key j := by rw [hu]; rfl
    rw [State.password_getElem, hukey, hkey j _ (List.getElem?_eq_getElem hj)]
  · refine List.ext_getElem (by rw [State.input_length, hilen]) fun j _ hj => ?_
    rw [State.input_getElem, hinp j _ (List.getElem?_eq_getElem hj)]
  · rw [hu, ht]
  · rw [hu]; exact htidle
  · rw [hu]

theorem InputsLoaded.ready {password input : List Byte} {s t : State} (h : InputsLoaded password input s t) {i : Instr}
    (hpos : 1 ≤ password.length) (hk : password.length ≤ s.params.keyMax) (hi : input.length ≤ s.params.inMax)
    (hhead : needsHeader i = true → 12 ≤ input.length) : Ready i t :=
  ⟨h.klen ▸ hpos, h.klen ▸ h.params ▸ hk, h.ilen ▸ h.params ▸ hi, h.ilen ▸ hhead⟩

/-! ### The result handed back -/

/-- The line `out` ends the run, and changes nothing of the unit (R61). -/
theorem runSteps_outLine {s : State} (hb : s.status.busy = false) (hfit : s.result.length ≤ s.params.outMax)
    (ha : s.agenda = [.host .out]) :
    ∃ u, runSteps (s.result.length + 2) s = .next u ∧ RunEnded u ∧ u.status = s.status ∧ u.cmd = s.cmd ∧
      u.result = s.result := by
  rw [State.result_length] at hfit ⊢
  exact ⟨_, outLineHandsBackTheResult s [] hb hfit ha, ⟨rfl, hb⟩, rfl, rfl, rfl⟩

/-- A completion without a fault means its result to the host, unless a CHECK rejected (R96, R112). -/
theorem State.verdict_eq_result {s : State} (herr : s.status.err = none)
    (hok : s.cmd ≠ encode .check ∨ s.status.valid = true) : s.verdict = .result s.result := by
  have hno : ¬ (s.cmd = encode .check ∧ s.status.valid = false) := by
    rintro ⟨hcmd, hvalid⟩
    rcases hok with h | h
    · exact h hcmd
    · exact Bool.false_ne_true (hvalid.symm.trans h)
  rw [State.verdict, herr]
  exact if_neg hno

/-! ### The line `run` and what follows it -/

theorem SameOutput.trans {s t u : State} (h : SameOutput s t) (h' : SameOutput t u) : SameOutput s u where
  status := h'.status.trans h.status
  olen := h'.olen.trans h.olen
  ha := h'.ha.trans h.ha
  hb := h'.hb.trans h.hb
  hc := h'.hc.trans h.hc
  out i hi := (h'.out i (h.olen ▸ hi)).trans (h.out i hi)

/-- The command of a `run` line at a unit that is ready for it leaves the output of its own effect (R54, R61). -/
theorem runSteps_runLine {s : State} {i : Instr} {polls : Nat} {es : List Event} (hb : s.status.busy = false)
    (h : Ready i s) (ha : s.agenda = .host (.run i polls) :: es) :
    ∃ u, runSteps (polls + 4) s = .next u ∧ SameOutput (ownEffect i s) u ∧ u.params = s.params ∧ u.cmd = encode i ∧
      u.status.busy = false ∧ u.agenda = es := by
  obtain ⟨t, u, ht, hrun, hout, hin, hcmd, hidle, hagenda⟩ := runLinePerformsOneCommand s i polls es hb ha
  have hstart : AgreeOnInput s (startCommand (encode i) s) := ⟨rfl, rfl, rfl, rfl, rfl, fun _ _ => rfl, fun _ _ => rfl⟩
  have hown : SameOutput (ownEffect i s) t := exec_sameOutput hstart (exec_ready h) ht
  exact ⟨u, hrun, hown.trans hout, hin.params.trans (exec_frame ht).inputs.params, hcmd, hidle, hagenda⟩

theorem encoded_length (a b : Half) (plaintext password : List Byte) :
    (shift .enc (buildHeader a b ++ plaintext) password).length = plaintext.length + 12 := by
  rw [shift_size, List.length_append, buildHeader_length, Nat.add_comm]

/-! ### The call `encrypt` -/

/-- The line `ops` (R61): OPA and OPB take the low halves (R22). -/
theorem runSteps_opsLine {s : State} {a b : Word} {es : List Event} (hb : s.status.busy = false)
    (ha : s.agenda = .host (.ops a b) :: es) :
    runSteps 3 s = .next { s with agenda := es, opa := a.setWidth 16, opb := b.setWidth 16 } :=
  runSteps_line (as := [.regWrite 5 a, .regWrite 6 b]) hb ha rfl (by simp [HostAccess.wellFormed]) (by simp)

/-- Settles O56: load, write the operands, run ENCRYPT, read the result. -/
theorem encryptCallReturnsEncodedMessage : Obligations.EncryptCallReturnsEncodedMessage := by
  intro s password plaintext a b polls hb hpos hk hi ha
  obtain ⟨t, hload, ht, htagenda⟩ := runSteps_loadInputs hb hk hi ha
  have hops := runSteps_opsLine ht.idle htagenda
  generalize hu : { t with
    agenda := [.host (.run .encrypt polls), .host .out], opa := a.setWidth 16, opb := b.setWidth 16 } = u at hops
  have huready : Ready .encrypt u := by
    obtain ⟨hkpos, hkle, hile, hhead⟩ := ht.ready (i := .encrypt) hpos hk hi nofun
    rw [← hu]
    exact ⟨hkpos, hkle, hile, hhead⟩
  have huresult : (encryptInput u).result =
      shift .enc (buildHeader (a.setWidth 16) (b.setWidth 16) ++ plaintext) password := by
    rw [encryptInput_result huready, ← ht.password_eq, ← ht.input_eq, ← hu]
    rfl
  have huidle : u.status.busy = false := by rw [← hu]; exact ht.idle
  have huparams : u.params = s.params := by rw [← hu]; exact ht.params
  obtain ⟨v, hrun, hvout, hvparams, hvcmd, hvidle, hvagenda⟩ :=
    runSteps_runLine (es := [.host .out]) huidle huready (by rw [← hu])
  have hvresult := hvout.result_eq.trans huresult
  have hvlen : v.result.length = plaintext.length + 12 := by rw [hvresult, encoded_length]
  obtain ⟨w, hout, hended, hstatus, hcmd, hresult⟩ := runSteps_outLine hvidle
    (by rw [hvlen, hvparams, huparams]; exact Nat.add_le_add_right hi 12) hvagenda
  refine ⟨w, ?_, hended, ?_⟩
  · have hsteps : password.length + 2 * plaintext.length + polls + 25 =
        (password.length + plaintext.length + 4) + (3 + ((polls + 4) + (v.result.length + 2))) := by omega
    rw [hsteps]
    exact runSteps_trans hload (runSteps_trans hops (runSteps_trans hrun hout))
  · have herr : w.status.err = none := by rw [hstatus, hvout.status]; rfl
    have hnocheck : w.cmd ≠ encode .check := by rw [hcmd, hvcmd]; decide
    rw [w.verdict_eq_result herr (.inl hnocheck), hresult, hvresult]

/-! ### The call `check` -/

/-- CHECK of an encoded message under its password parses the built header, accepts, and delivers the plaintext (R99). -/
theorem checkInput_of_encoded {s : State} (h : Ready .check s) {a b : Half} {plaintext : List Byte}
    (hin : s.input = shift .enc (buildHeader a b ++ plaintext) s.password) :
    checksumOk (checkedHeader s) = true ∧ (checkInput s).result = plaintext := by
  have hdec : shift .dec s.input s.password = buildHeader a b ++ plaintext := by
    rw [hin]
    exact shift_opposite_shift .enc _ _
  have hhead : checkedHeader s = headerOf a b := by
    rw [checkedHeader_eq_parseHeader h.klen_pos (h.has_header rfl), hdec, List.take_left' (buildHeader_length a b)]
    exact parseHeader_bytes _
  have hok : checksumOk (checkedHeader s) = true := hhead ▸ checksumOk_headerOf a b
  exact ⟨hok, by rw [checkInput_result h hok, hdec, List.drop_left' (buildHeader_length a b)]⟩

/-- Settles O57: load, run CHECK, read STATUS, read the result. -/
theorem checkCallReturnsPlaintext : Obligations.CheckCallReturnsPlaintext := by
  intro s password plaintext a b polls hb hpos hk hi ha
  have henclen := encoded_length a b plaintext password
  obtain ⟨t, hload, ht, htagenda⟩ := runSteps_loadInputs hb hk (henclen ▸ hi) ha
  have htready : Ready .check t := ht.ready hpos hk (henclen ▸ hi) fun _ => henclen ▸ Nat.le_add_left 12 _
  obtain ⟨hok, htresult⟩ := checkInput_of_encoded htready (by rw [ht.input_eq, ht.password_eq])
  obtain ⟨v, hrun, hvout, hvparams, hvcmd, hvidle, hvagenda⟩ := runSteps_runLine ht.idle htready htagenda
  have hvresult : v.result = plaintext := hvout.result_eq.trans htresult
  have hvvalid : v.status.valid = true := by rw [hvout.status]; exact (checkInput_valid htready).trans hok
  have hverr : v.status.err = none := by rw [hvout.status]; exact (checkInput_accepts htready hok).1.err
  have hread : step v = .next ((v.withAgenda [.host .out]).observe (.reg 1 v.status.toWord)) :=
    step_access_idle hvagenda hvidle
  have hfit : v.result.length ≤ v.params.outMax := by
    rw [hvresult, hvparams, ht.params, Params.outMax]
    omega
  obtain ⟨w, hout, hended, hstatus, -, hresult⟩ :=
    runSteps_outLine (s := (v.withAgenda [.host .out]).observe (.reg 1 v.status.toWord)) hvidle hfit rfl
  have hwvalid : w.status.valid = true := hstatus ▸ hvvalid
  refine ⟨w, ?_, hended, hwvalid, ?_⟩
  · have hsteps : password.length + 2 * plaintext.length + polls + 23 =
        (password.length + (shift .enc (buildHeader a b ++ plaintext) password).length + 4) +
          ((polls + 4) + ((v.result.length + 2) + 1)) := by
      rw [henclen, hvresult]
      omega
    rw [hsteps]
    exact runSteps_trans hload (runSteps_trans hrun ((runSteps_succ _ _ _ hread).trans hout))
  · rw [w.verdict_eq_result (hstatus ▸ hverr) (.inr hwvalid), hresult]
    exact congrArg Verdict.result hvresult

end Sys2Proof.Machine
